-- ==== Sys2Proof/Word.lean ====
section
/-! DEFINITION. The machine words of the block: bytes, 16-bit operand fields and the command-port
selector. All quantities are unsigned (spec/00_scope.md R10). -/

namespace Sys2Proof

/-- A byte: 8 bits, bit 7 the most significant (R10). -/
abbrev Byte := BitVec 8

/-- The source's `u16` (R10). -/
abbrev U16 := BitVec 16

/-- The command port's operation selector OPSEL, five bits wide (R96, R99). -/
abbrev Selector := BitVec 5

end Sys2Proof
end

