-- ==== Sys2Proof/Syntax.lean ====
section
/-! DEFINITION. The operations of the block (spec/30_encoding.md R96) with their operands
(R97): one constructor per row of spec/opcode_table.json. -/

namespace Sys2Proof

/-- "Three independent 8-bit channels (red, green, blue)" (R18, R37): an operand, not a register. -/
structure Color where
  r : Byte
  g : Byte
  b : Byte
  deriving DecidableEq, Repr, Inhabited

/-- The `alpha` operand of `fromRGBA`: an exact rational `num / den` (R111).
Not-a-number and the infinities have no such value (93 U9). -/
structure Alpha where
  num : Int
  den : Nat
  deriving DecidableEq, Repr, Inhabited

/-- The eighteen operations. The names follow R96; `initializeSession` and `deinitializeSession`
are the table's `initialize` and `deinitialize`. -/
inductive Instr where
  | fromRGB (r g b : Byte)
  | fromRGBA (r g b : Byte) (alpha : Alpha)
  | fromHSV (hue sat val : Byte)
  | initializeSession
  | send (payValid : Bool) (length : Nat)
  | setReceiveCapacity (n : Nat)
  | readInto (n : Nat)
  | lastReceived
  | deinitializeSession
  | displayInit (pin0 pin1 pin2 pin3 : Byte) (width height : U16)
  | displayDeinit
  | displayFlip (fb : Byte)
  | framebufferClear (fb : Byte) (color : Color)
  | framebufferBlit (srcFb dstFb : Byte) (srcX srcY dstX dstY w h : U16)
  | framebufferDraw (fb : Byte) (x y w h : U16) (payValid : Bool)
  | miscHwinfo
  | miscStat
  | selfTest (marker : Byte)
  deriving DecidableEq, Repr

end Sys2Proof
end

