-- ==== Sys2Proof/Config.lean ====
section
/-! DEFINITION. What an implementation fixes (spec/00_scope.md R7, R8) and the free values: constants
with no body, about which nothing can be proved but what their type says. -/

namespace Sys2Proof

/-- The eleven category and opcode bytes, all open in the source (R8, R81, 92 D3, D4). -/
structure WireCodes where
  catHub75 : Byte
  catFb : Byte
  catMisc : Byte
  opHub75Init : Byte
  opHub75Deinit : Byte
  opHub75Flip : Byte
  opFbClear : Byte
  opFbBlit : Byte
  opFbDraw : Byte
  opMiscHwinfo : Byte
  opMiscStat : Byte
  deriving DecidableEq, Repr

/-- R8: the categories pairwise distinct, and the opcodes pairwise distinct within a category. -/
def WireCodes.distinct (c : WireCodes) : Bool :=
  c.catHub75 != c.catFb && c.catHub75 != c.catMisc && c.catFb != c.catMisc
    && c.opHub75Init != c.opHub75Deinit && c.opHub75Init != c.opHub75Flip
    && c.opHub75Deinit != c.opHub75Flip
    && c.opFbClear != c.opFbBlit && c.opFbClear != c.opFbDraw && c.opFbBlit != c.opFbDraw
    && c.opMiscHwinfo != c.opMiscStat

/-- `ST_PATTERN` (R172) as data: the bytes of the pattern and the offset at which the caller's
marker stands. The function of the marker is `Sys2Proof.Machine.testPattern`; by R172 (a), (d)
and (e) every `ST_PATTERN` the spec admits has this form. -/
structure TestPattern where
  bytes : List Byte
  markOff : Nat
  deriving DecidableEq, Repr

/-- R172 (b), (c), (d): oversized, distinct sentinels, the marker strictly between them. The bound
`2 ^ 34` is R29's width of `total`. -/
def TestPattern.wf (t : TestPattern) (maxChunk : Nat) : Bool :=
  decide (maxChunk < t.bytes.length) && decide (t.bytes.length < 2 ^ 34)
    && decide (t.bytes.head? ≠ t.bytes.getLast?)
    && decide (0 < t.markOff) && decide (t.markOff + 1 < t.bytes.length)

/-- `BUS_CFG`, the opaque bus configuration (R8, R27): "clock rate, pin mapping, device parameters"
(R121), no value of which is in the source. -/
structure BusCfg where
  clockRate : Nat
  pinMapping : List Nat
  deviceParams : List Nat
  deriving DecidableEq, Repr, Inhabited

/-- Which `HSV_FN` the implementation has (R8, R113): the default routine the spec prints, or another
one, of which only R112 and R113 (b), (c) are known. -/
inductive HsvRoutine where
  | standard
  | other
  deriving DecidableEq, Repr

/-- The configuration of R7 and R8, the read-only configuration registers of R27 among it. -/
structure Config where
  /-- `FB_COUNT` (R7). -/
  fbCount : Nat
  /-- `MAX_CHUNK` in bytes (R7, R27). -/
  maxChunk : Nat
  /-- `LOCK_TIMEOUT` in seconds (R7, R201); no rule computes with it (R127). -/
  lockTimeoutSeconds : Nat
  /-- `N_PROD` (R8). -/
  nProd : Nat
  /-- The category and opcode bytes (R8). -/
  codes : WireCodes
  /-- `SIZE_BITS` (R8). -/
  sizeBits : Nat
  /-- `ERR_BITS` (R8). -/
  errBits : Nat
  /-- `HAS_CAPTURE` (R8). -/
  hasCapture : Bool
  /-- `BUS_CFG` (R8, R27). -/
  busCfg : BusCfg
  /-- `ST_PATTERN` (R172). -/
  pattern : TestPattern
  /-- `HSV_FN` (R113). -/
  hsv : HsvRoutine
  deriving DecidableEq, Repr

/-- The constraints of R7, R8 and R172. -/
def Config.wf (c : Config) : Bool :=
  decide (1 ≤ c.fbCount) && decide (c.fbCount ≤ 256) && decide (1 ≤ c.maxChunk)
    && decide (1 ≤ c.nProd) && c.codes.distinct && decide (16 ≤ c.sizeBits)
    && decide (1 ≤ c.errBits) && c.pattern.wf c.maxChunk

/-- `LEN_BITS`: 34, and `SIZE_BITS` where that is wider (R8, R29). -/
def Config.lenBits (c : Config) : Nat := max 34 c.sizeBits

/-- One answer of the channel to a physical transfer (R15): the bytes it returns, or a
device-specific failure code. -/
inductive XferAnswer where
  | ok (rx : List Byte)
  | fail (code : Nat)
  deriving DecidableEq, Repr, Inhabited

/-- One answer of the bus opener (R15). -/
inductive OpenAnswer where
  | ok
  | fail (code : Nat)
  deriving DecidableEq, Repr, Inhabited

/-- The open wire codes with the one thing R8 says of them. The field defaults only show that the
type is inhabited (they are no claim about the device, R9). -/
structure OpenCodes where
  codes : WireCodes := ⟨0, 1, 2, 0, 1, 2, 0, 1, 2, 0, 1⟩
  distinct : codes.distinct = true := by decide
  deriving Inhabited

/-- R172's constraints can be met for any `MAX_CHUNK` the block's widths allow. -/
theorem TestPattern.wf_of_length (maxChunk : Nat) (h : maxChunk + 3 < 2 ^ 34) :
    TestPattern.wf ⟨0 :: (List.replicate (maxChunk + 1) 0 ++ [1]), 1⟩ maxChunk = true := by
  have last : (0 :: (List.replicate (maxChunk + 1) (0 : Byte) ++ [1])).getLast? = some 1 := by
    rw [← List.cons_append, List.getLast?_concat]
  simp only [TestPattern.wf, last, List.head?_cons]
  simp
  omega

/-- The open self-test pattern with what R172 says of it for `MAX_CHUNK = 4096`. The field defaults
only show that the type is inhabited. -/
structure OpenPattern where
  pattern : TestPattern := ⟨0 :: (List.replicate (4096 + 1) 0 ++ [1]), 1⟩
  wf : pattern.wf 4096 = true := by exact TestPattern.wf_of_length 4096 (by decide)
  deriving Inhabited

/-- DESIGN CHOICE (log 1): the open wire codes of the machine at reset, a constant with no value. -/
opaque Config.openCodes : OpenCodes

/-- DESIGN CHOICE (log 1): the open self-test pattern of the machine at reset. -/
opaque Config.openPattern : OpenPattern

/-- DESIGN CHOICE (log 1): the open bus configuration of the machine at reset. -/
opaque Config.openBusCfg : BusCfg

/-- Free value (log 5): byte `i` of the `d`-th draw of unspecified bytes. -/
opaque Config.freeByte (draw : Nat) (i : Nat) : Byte

/-- Free value (log 3): the channel's answer when State lists none (R15, 93 U20). -/
opaque Config.channelAnswer (draw : Nat) : XferAnswer

/-- Free value (log 3): the bus opener's answer when State lists none. -/
opaque Config.openerAnswer (bus : BusCfg) (draw : Nat) : OpenAnswer

/-- Free value (log 3): the allocator's answer to a request for `n` bytes when State lists none. -/
opaque Config.allocatorAnswer (n : Nat) (draw : Nat) : Bool

/-- Free value (log 3): the allocator's answer to `CreateLock` when State lists none. -/
opaque Config.lockAnswer (draw : Nat) : Bool

/-- Free value (log 4): the producer that steps next when State lists no move (R21, 93 U19). -/
opaque Config.nextProducer (draw : Nat) : Nat

/-- Free value (log 7): an `HSV_FN` other than the default, where R112 and R113 fix nothing. -/
opaque Config.otherHsv (hue sat val : Byte) : Color

/-- The configuration of the machine at reset. R7's three values; the spec's own defaults of R8 where
it gives one; DESIGN CHOICE (log 2) `N_PROD = 2`; the rest open constants (log 1). -/
def Config.atReset : Config where
  fbCount := 4
  maxChunk := 4096
  lockTimeoutSeconds := 1
  nProd := 2
  codes := Config.openCodes.codes
  sizeBits := 32
  errBits := 32
  hasCapture := true
  busCfg := Config.openBusCfg
  pattern := Config.openPattern.pattern
  hsv := .standard

end Sys2Proof
end

