-- ==== Sys2Proof/WellFormed.lean ====
section
/-! DEFINITION. Which operations are requests at all: the operand widths of spec/30_encoding.md R97.
A framebuffer index out of range is well formed; it is an error the operation itself reports
(spec/60_exceptions.md R186). -/

namespace Sys2Proof

/-- `alpha` denotes a rational number (R111). -/
def Alpha.wellFormed (a : Alpha) : Bool := a.den != 0

/-- A `size` operand has `SIZE_BITS` bits (R97). -/
def sizeFits (sizeBits n : Nat) : Bool := decide (n < 2 ^ sizeBits)

/-- The operands fit the widths of R97. The `u8` and `u16` operands fit by their types. -/
def Instr.wellFormed (sizeBits : Nat) : Instr → Bool
  | .fromRGB _ _ _ => true
  | .fromRGBA _ _ _ alpha => alpha.wellFormed
  | .fromHSV _ _ _ => true
  | .initializeSession => true
  | .send _ length => sizeFits sizeBits length
  | .setReceiveCapacity n => sizeFits sizeBits n
  | .readInto n => sizeFits sizeBits n
  | .lastReceived => true
  | .deinitializeSession => true
  | .displayInit _ _ _ _ _ _ => true
  | .displayDeinit => true
  | .displayFlip _ => true
  | .framebufferClear _ _ => true
  | .framebufferBlit _ _ _ _ _ _ _ _ => true
  | .framebufferDraw _ _ _ _ _ _ => true
  | .miscHwinfo => true
  | .miscStat => true
  | .selfTest _ => true

end Sys2Proof
end

