-- ==== Sys2Proof/Decode.lean ====
section
/-! DEFINITION. The two encodings of spec/30_encoding.md, which must not be confused: the host port's
request (OPSEL and operands, R96, R97) and the header frame on the wire (R80 to R95, R100). Each
has a decoder, total on any bytes and rejecting by name, and an encoder. -/

namespace Sys2Proof

/-! ## Bytes -/

/-- `le16` (R11, R59): the byte with bits 7..0 first. -/
def le16 (v : U16) : List Byte := [v.setWidth 8, (v >>> 8).setWidth 8]

/-- The `u16` whose low byte is `lo` and high byte `hi`: `le16` read back. -/
def ofLe16 (lo hi : Byte) : U16 := hi ++ lo

/-! ## The host port's request

The selector's value and width are the spec's (R96, R99). How operand values lie on the port is not:
requests are typed records (20 R64, 92 D1), so the byte layout below is a DESIGN CHOICE (log 6). One
byte holds OPSEL in bits 4..0 and zeros above; the operands follow in R97's order: a `u8` as one
byte, a `u16` as `le16`, a bit as one byte 0 or 1, a `size` in groups of seven bits, lowest group
first, bit 7 set on all but the last; `alpha` as its numerator (folded to a natural number) and its
denominator less one. -/

/-- Why a request's bytes name no operation. -/
inductive DecodeError where
  /-- No byte at all. -/
  | empty
  /-- Bits 7..5 of the selector byte are not zero; the selector is five bits wide (R99). -/
  | reservedBits (b : Byte)
  /-- OPSEL `0x12` to `0x1F`, or a capture operation of a block without a capture unit: names no
  operation; the port answers `InvalidArgument` (R99). -/
  | unassigned (sel : Selector)
  /-- The operand bytes end too soon. -/
  | truncated
  /-- A bit operand that is neither 0 nor 1. -/
  | badBit (b : Byte)
  /-- A byte other than zero after the last operand. -/
  | trailing
  deriving DecidableEq, Repr

/-- OPSEL of an operation (R96). -/
def opsel : Instr → Nat
  | .fromRGB _ _ _ => 0x00
  | .fromRGBA _ _ _ _ => 0x01
  | .fromHSV _ _ _ => 0x02
  | .initializeSession => 0x03
  | .send _ _ => 0x04
  | .setReceiveCapacity _ => 0x05
  | .readInto _ => 0x06
  | .lastReceived => 0x07
  | .deinitializeSession => 0x08
  | .displayInit _ _ _ _ _ _ => 0x09
  | .displayDeinit => 0x0A
  | .displayFlip _ => 0x0B
  | .framebufferClear _ _ => 0x0C
  | .framebufferBlit _ _ _ _ _ _ _ _ => 0x0D
  | .framebufferDraw _ _ _ _ _ _ => 0x0E
  | .miscHwinfo => 0x0F
  | .miscStat => 0x10
  | .selfTest _ => 0x11

/-- A `u8` operand. -/
def takeByte : List Byte → Except DecodeError (Byte × List Byte)
  | b :: rest => .ok (b, rest)
  | [] => .error .truncated

/-- A `u16` operand, low byte first. -/
def takeU16 : List Byte → Except DecodeError (U16 × List Byte)
  | lo :: hi :: rest => .ok (ofLe16 lo hi, rest)
  | _ => .error .truncated

/-- A bit operand. -/
def takeBit : List Byte → Except DecodeError (Bool × List Byte)
  | b :: rest => if b = 0 then .ok (false, rest) else if b = 1 then .ok (true, rest) else .error (.badBit b)
  | [] => .error .truncated

/-- A `size` operand: groups of seven bits, the lowest first. -/
def takeNat : List Byte → Except DecodeError (Nat × List Byte)
  | b :: rest =>
    if b.toNat < 128 then .ok (b.toNat, rest)
    else match takeNat rest with
      | .ok (n, rest') => .ok (b.toNat % 128 + 128 * n, rest')
      | .error e => .error e
  | [] => .error .truncated

/-- The integers folded onto the naturals: 0, -1, 1, -2, 2, ... -/
def foldInt : Int → Nat
  | .ofNat n => 2 * n
  | .negSucc n => 2 * n + 1

/-- `foldInt` read back. -/
def unfoldInt (n : Nat) : Int :=
  if n % 2 = 0 then .ofNat (n / 2) else .negSucc (n / 2)

/-- The `alpha` operand: folded numerator, then denominator less one. -/
def takeAlpha (bs : List Byte) : Except DecodeError (Alpha × List Byte) := do
  let (num, bs) ← takeNat bs
  let (den, bs) ← takeNat bs
  return (⟨unfoldInt num, den + 1⟩, bs)

/-- A `Color` operand: red, green, blue (R93). -/
def takeColor (bs : List Byte) : Except DecodeError (Color × List Byte) := do
  let (r, bs) ← takeByte bs
  let (g, bs) ← takeByte bs
  let (b, bs) ← takeByte bs
  return (⟨r, g, b⟩, bs)

/-- The operands of the operation with selector `sel`, in R97's order. -/
def decodeOperands (sel : Nat) (bs : List Byte) : Except DecodeError (Instr × List Byte) :=
  match sel with
  | 0x00 => do
    let (c, bs) ← takeColor bs
    return (.fromRGB c.r c.g c.b, bs)
  | 0x01 => do
    let (c, bs) ← takeColor bs
    let (alpha, bs) ← takeAlpha bs
    return (.fromRGBA c.r c.g c.b alpha, bs)
  | 0x02 => do
    let (hue, bs) ← takeByte bs
    let (sat, bs) ← takeByte bs
    let (val, bs) ← takeByte bs
    return (.fromHSV hue sat val, bs)
  | 0x03 => return (.initializeSession, bs)
  | 0x04 => do
    let (payValid, bs) ← takeBit bs
    let (length, bs) ← takeNat bs
    return (.send payValid length, bs)
  | 0x05 => do
    let (n, bs) ← takeNat bs
    return (.setReceiveCapacity n, bs)
  | 0x06 => do
    let (n, bs) ← takeNat bs
    return (.readInto n, bs)
  | 0x07 => return (.lastReceived, bs)
  | 0x08 => return (.deinitializeSession, bs)
  | 0x09 => do
    let (pin0, bs) ← takeByte bs
    let (pin1, bs) ← takeByte bs
    let (pin2, bs) ← takeByte bs
    let (pin3, bs) ← takeByte bs
    let (width, bs) ← takeU16 bs
    let (height, bs) ← takeU16 bs
    return (.displayInit pin0 pin1 pin2 pin3 width height, bs)
  | 0x0A => return (.displayDeinit, bs)
  | 0x0B => do
    let (fb, bs) ← takeByte bs
    return (.displayFlip fb, bs)
  | 0x0C => do
    let (fb, bs) ← takeByte bs
    let (color, bs) ← takeColor bs
    return (.framebufferClear fb color, bs)
  | 0x0D => do
    let (srcFb, bs) ← takeByte bs
    let (dstFb, bs) ← takeByte bs
    let (srcX, bs) ← takeU16 bs
    let (srcY, bs) ← takeU16 bs
    let (dstX, bs) ← takeU16 bs
    let (dstY, bs) ← takeU16 bs
    let (w, bs) ← takeU16 bs
    let (h, bs) ← takeU16 bs
    return (.framebufferBlit srcFb dstFb srcX srcY dstX dstY w h, bs)
  | 0x0E => do
    let (fb, bs) ← takeByte bs
    let (x, bs) ← takeU16 bs
    let (y, bs) ← takeU16 bs
    let (w, bs) ← takeU16 bs
    let (h, bs) ← takeU16 bs
    let (payValid, bs) ← takeBit bs
    return (.framebufferDraw fb x y w h payValid, bs)
  | 0x0F => return (.miscHwinfo, bs)
  | 0x10 => return (.miscStat, bs)
  | 0x11 => do
    let (marker, bs) ← takeByte bs
    return (.selfTest marker, bs)
  | _ => .error .truncated

/-- Read one operation from the front of a byte list; what follows it comes back. -/
def decode : List Byte → Except DecodeError (Instr × List Byte)
  | [] => .error .empty
  | b :: bs =>
    if 32 ≤ b.toNat then .error (.reservedBits b)
    else if 18 ≤ b.toNat then .error (.unassigned (b.setWidth 5))
    else decodeOperands b.toNat bs

/-- The request a port holds: one operation, then nothing but zeros. -/
def decodeRequest (words : List Byte) : Except DecodeError Instr :=
  match decode words with
  | .ok (i, rest) => if rest.all (· == 0) then .ok i else .error .trailing
  | .error e => .error e

/-- The operation a port reads: where there is no capture unit, the selectors `0x05`, `0x06` and `0x07`
name no operation (R99). -/
def decodePort (hasCapture : Bool) : List Byte → Except DecodeError Instr
  | [] => .error .empty
  | b :: bs =>
    if hasCapture = false ∧ 5 ≤ b.toNat ∧ b.toNat ≤ 7 then .error (.unassigned (b.setWidth 5))
    else decodeRequest (b :: bs)

/-- `size` operands laid out (the inverse of `takeNat`); `fuel` bounds the number of groups. -/
def encodeNatFuel : Nat → Nat → List Byte
  | 0, _ => []
  | fuel + 1, n =>
    if n < 128 then [BitVec.ofNat 8 n]
    else BitVec.ofNat 8 (128 + n % 128) :: encodeNatFuel fuel (n / 128)

/-- A `size` operand laid out in groups of seven bits, the lowest first. -/
def encodeNat (n : Nat) : List Byte := encodeNatFuel (n + 1) n

/-- A bit operand laid out. -/
def encodeBit (b : Bool) : Byte := if b then 1 else 0

/-- The operand bytes of an operation, in R97's order. -/
def encodeOperands : Instr → List Byte
  | .fromRGB r g b => [r, g, b]
  | .fromRGBA r g b alpha => [r, g, b] ++ encodeNat (foldInt alpha.num) ++ encodeNat (alpha.den - 1)
  | .fromHSV hue sat val => [hue, sat, val]
  | .initializeSession => []
  | .send payValid length => encodeBit payValid :: encodeNat length
  | .setReceiveCapacity n => encodeNat n
  | .readInto n => encodeNat n
  | .lastReceived => []
  | .deinitializeSession => []
  | .displayInit pin0 pin1 pin2 pin3 width height => [pin0, pin1, pin2, pin3] ++ le16 width ++ le16 height
  | .displayDeinit => []
  | .displayFlip fb => [fb]
  | .framebufferClear fb color => [fb, color.r, color.g, color.b]
  | .framebufferBlit srcFb dstFb srcX srcY dstX dstY w h =>
    [srcFb, dstFb] ++ le16 srcX ++ le16 srcY ++ le16 dstX ++ le16 dstY ++ le16 w ++ le16 h
  | .framebufferDraw fb x y w h payValid =>
    [fb] ++ le16 x ++ le16 y ++ le16 w ++ le16 h ++ [encodeBit payValid]
  | .miscHwinfo => []
  | .miscStat => []
  | .selfTest marker => [marker]

/-- The bytes of a request: the selector, then the operands. -/
def encode (i : Instr) : List Byte := BitVec.ofNat 8 (opsel i) :: encodeOperands i

/-- The most bytes a request takes whose operand words are zeros: `framebuffer-blit`'s fifteen. -/
def longestRequest : Nat := 15

/-- The bytes of a table word: bit 0 of `w` is the least significant bit of the first byte. Every bit
from `nbits` on is zero, up to the longest request. -/
def tableWordBytes (nbits w : Nat) : List Byte :=
  (List.range (max ((nbits + 7) / 8) longestRequest)).map fun i =>
    if i < (nbits + 7) / 8 then BitVec.ofNat 8 (w / 256 ^ i) else 0

/-- The operation the decoder reads from a word of spec/opcode_table.json. -/
def decodeTableWord (nbits w : Nat) : Option Instr :=
  match decodeRequest (tableWordBytes nbits w) with
  | .ok i => some i
  | .error _ => none

/-! ## The header frame on the wire (R80 to R95) -/

/-- `display-init`, format F10 (R84). -/
def frameDisplayInit (c : WireCodes) (pin0 pin1 pin2 pin3 : Byte) (width height : U16) : List Byte :=
  [c.catHub75, c.opHub75Init, pin0, pin1, pin2, pin3] ++ le16 width ++ le16 height

/-- `display-deinit`, format F2 (R85). -/
def frameDisplayDeinit (c : WireCodes) : List Byte := [c.catHub75, c.opHub75Deinit]

/-- `display-flip`, format F3 (R86). -/
def frameDisplayFlip (c : WireCodes) (fb : Byte) : List Byte := [c.catHub75, c.opHub75Flip, fb]

/-- `framebuffer-clear`, format F6 (R87): the color before the index. -/
def frameClear (c : WireCodes) (fb : Byte) (color : Color) : List Byte :=
  [c.catFb, c.opFbClear, color.r, color.g, color.b, fb]

/-- `framebuffer-draw`, format F11 (R88). -/
def frameDraw (c : WireCodes) (fb : Byte) (x y w h : U16) : List Byte :=
  [c.catFb, c.opFbDraw] ++ le16 x ++ le16 y ++ le16 w ++ le16 h ++ [fb]

/-- `framebuffer-blit`, format F16 (R89): coordinates first, indices last. -/
def frameBlit (c : WireCodes) (srcFb dstFb : Byte) (srcX srcY dstX dstY w h : U16) : List Byte :=
  [c.catFb, c.opFbBlit] ++ le16 srcX ++ le16 srcY ++ le16 dstX ++ le16 dstY ++ le16 w ++ le16 h
    ++ [srcFb, dstFb]

/-- `misc-hwinfo`, format F2 (R90). -/
def frameHwinfo (c : WireCodes) : List Byte := [c.catMisc, c.opMiscHwinfo]

/-- `misc-stat`, format F2 (R91). -/
def frameStat (c : WireCodes) : List Byte := [c.catMisc, c.opMiscStat]

/-- The header frame an operation emits; none (no bytes) for the ten that build no header (R96). -/
def headerFrame (c : WireCodes) : Instr → List Byte
  | .fromRGB _ _ _ => []
  | .fromRGBA _ _ _ _ => []
  | .fromHSV _ _ _ => []
  | .initializeSession => []
  | .send _ _ => []
  | .setReceiveCapacity _ => []
  | .readInto _ => []
  | .lastReceived => []
  | .deinitializeSession => []
  | .displayInit pin0 pin1 pin2 pin3 width height => frameDisplayInit c pin0 pin1 pin2 pin3 width height
  | .displayDeinit => frameDisplayDeinit c
  | .displayFlip fb => frameDisplayFlip c fb
  | .framebufferClear fb color => frameClear c fb color
  | .framebufferBlit srcFb dstFb srcX srcY dstX dstY w h => frameBlit c srcFb dstFb srcX srcY dstX dstY w h
  | .framebufferDraw fb x y w h _ => frameDraw c fb x y w h
  | .miscHwinfo => frameHwinfo c
  | .miscStat => frameStat c
  | .selfTest _ => []

/-- Why bytes are no header frame. -/
inductive WireError where
  /-- Fewer bytes than the command header, the format or the announced payload has (R81, R83, R92). -/
  | short
  /-- A category byte outside the closed enumeration (R81, R98). -/
  | unknownCategory (cat : Byte)
  /-- An opcode byte its category does not have (R98). -/
  | unknownOpcode (cat op : Byte)
  /-- A record of another length than the pair's format has (R83, R98), or a payload frame of another
  length than its draw announced (R92). -/
  | badLength (len : Nat)
  deriving DecidableEq, Repr

/-- The six header-frame formats (R83). -/
inductive Format where
  | f2
  | f3
  | f6
  | f10
  | f11
  | f16
  deriving DecidableEq, Repr

/-- The length of a format's parameter record: the frame without its two header bytes (R83). -/
def Format.recordLength : Format → Nat
  | .f2 => 0
  | .f3 => 1
  | .f6 => 4
  | .f10 => 8
  | .f11 => 9
  | .f16 => 14

/-- The eight wire commands (R83), each one (category, opcode) pair. -/
inductive WireCommand where
  | displayInit
  | displayDeinit
  | displayFlip
  | clear
  | draw
  | blit
  | hwinfo
  | stat
  deriving DecidableEq, Repr

/-- The format of a command (R83). -/
def WireCommand.format : WireCommand → Format
  | .displayInit => .f10
  | .displayDeinit => .f2
  | .displayFlip => .f3
  | .clear => .f6
  | .draw => .f11
  | .blit => .f16
  | .hwinfo => .f2
  | .stat => .f2

/-- The pair (category, opcode), the first two bytes of a header frame, alone selects the command and
with it the format (R81, R98, R100). -/
def selectCommand (c : WireCodes) (cat op : Byte) : Except WireError WireCommand :=
  if cat = c.catHub75 then
    if op = c.opHub75Init then .ok .displayInit
    else if op = c.opHub75Deinit then .ok .displayDeinit
    else if op = c.opHub75Flip then .ok .displayFlip
    else .error (.unknownOpcode cat op)
  else if cat = c.catFb then
    if op = c.opFbClear then .ok .clear
    else if op = c.opFbBlit then .ok .blit
    else if op = c.opFbDraw then .ok .draw
    else .error (.unknownOpcode cat op)
  else if cat = c.catMisc then
    if op = c.opMiscHwinfo then .ok .hwinfo
    else if op = c.opMiscStat then .ok .stat
    else .error (.unknownOpcode cat op)
  else .error (.unknownCategory cat)

/-- The parameter record of a command (R84 to R91). The wire does not carry `pay_valid`; a draw read back
has it clear. -/
def readRecord (k : WireCommand) (record : List Byte) : Except WireError Instr :=
  match k with
  | .displayInit =>
    match record with
    | [p0, p1, p2, p3, w0, w1, h0, h1] => .ok (.displayInit p0 p1 p2 p3 (ofLe16 w0 w1) (ofLe16 h0 h1))
    | _ => .error (.badLength record.length)
  | .displayDeinit =>
    match record with
    | [] => .ok .displayDeinit
    | _ => .error (.badLength record.length)
  | .displayFlip =>
    match record with
    | [fb] => .ok (.displayFlip fb)
    | _ => .error (.badLength record.length)
  | .clear =>
    match record with
    | [r, g, b, fb] => .ok (.framebufferClear fb ⟨r, g, b⟩)
    | _ => .error (.badLength record.length)
  | .draw =>
    match record with
    | [x0, x1, y0, y1, w0, w1, h0, h1, fb] =>
      .ok (.framebufferDraw fb (ofLe16 x0 x1) (ofLe16 y0 y1) (ofLe16 w0 w1) (ofLe16 h0 h1) false)
    | _ => .error (.badLength record.length)
  | .blit =>
    match record with
    | [a0, a1, b0, b1, c0, c1, d0, d1, w0, w1, h0, h1, srcFb, dstFb] =>
      .ok (.framebufferBlit srcFb dstFb (ofLe16 a0 a1) (ofLe16 b0 b1) (ofLe16 c0 c1) (ofLe16 d0 d1)
        (ofLe16 w0 w1) (ofLe16 h0 h1))
    | _ => .error (.badLength record.length)
  | .hwinfo =>
    match record with
    | [] => .ok .miscHwinfo
    | _ => .error (.badLength record.length)
  | .stat =>
    match record with
    | [] => .ok .miscStat
    | _ => .error (.badLength record.length)

/-- A whole header frame: the pair (category, opcode), then the record. -/
def decodeHeader (c : WireCodes) : List Byte → Except WireError Instr
  | cat :: op :: record =>
    match selectCommand c cat op with
    | .ok k => readRecord k record
    | .error e => .error e
  | _ => .error .short

/-- The number of pixels a command announces: `w * h` of `framebuffer-draw`, exact; none of any other (R166). -/
def pixelArea : Instr → Nat
  | .framebufferDraw _ _ _ w h _ => w.toNat * h.toNat
  | .fromRGB _ _ _ => 0
  | .fromRGBA _ _ _ _ => 0
  | .fromHSV _ _ _ => 0
  | .initializeSession => 0
  | .send _ _ => 0
  | .setReceiveCapacity _ => 0
  | .readInto _ => 0
  | .lastReceived => 0
  | .deinitializeSession => 0
  | .displayInit _ _ _ _ _ _ => 0
  | .displayDeinit => 0
  | .displayFlip _ => 0
  | .framebufferClear _ _ => 0
  | .framebufferBlit _ _ _ _ _ _ _ _ => 0
  | .miscHwinfo => 0
  | .miscStat => 0
  | .selfTest _ => 0

/-- The length of the payload frame that follows a command's header frame: three bytes a pixel of
`framebuffer-draw`, known from its `w` and `h` alone (R92, R100). -/
def payloadBytes (i : Instr) : Nat := 3 * pixelArea i

/-- A command as the wire carries it: its header frame read back, and its payload bytes. -/
structure WireMessage where
  command : Instr
  payload : List Byte
  deriving DecidableEq, Repr

/-- The next command of a wire stream, which has no other delimiters: the first two bytes tell the length
of the header frame; after a draw its `w` and `h` tell the length of the payload; what follows comes
back (R100). -/
def readCommand (c : WireCodes) : List Byte → Except WireError (WireMessage × List Byte)
  | cat :: op :: rest =>
    match selectCommand c cat op with
    | .error e => .error e
    | .ok k =>
      let n := k.format.recordLength
      if rest.length < n then .error .short
      else match readRecord k (rest.take n) with
        | .error e => .error e
        | .ok i =>
          if (rest.drop n).length < payloadBytes i then .error .short
          else .ok (⟨i, (rest.drop n).take (payloadBytes i)⟩, (rest.drop n).drop (payloadBytes i))
  | _ => .error .short

/-- At most `fuel` commands of a wire stream, to its end. -/
def readStreamFuel (c : WireCodes) : Nat → List Byte → Except WireError (List WireMessage)
  | _, [] => .ok []
  | 0, _ :: _ => .error .short
  | fuel + 1, b :: bs =>
    match readCommand c (b :: bs) with
    | .error e => .error e
    | .ok (m, rest) => (readStreamFuel c fuel rest).map (m :: ·)

/-- The commands of a wire stream (R100): chunk boundaries carry no meaning, so this is over the bytes of
any number of transfers joined. A command has at least one byte, so the fuel suffices. Raw frames have
no command structure and cannot be told from one (R103). -/
def readStream (c : WireCodes) (bytes : List Byte) : Except WireError (List WireMessage) :=
  readStreamFuel c bytes.length bytes

/-- The commands of a list of whole frames, as a checker of the trace has them: after the header frame of
a draw with pixels, a separate frame of exactly `3 * w * h` bytes (R80, R92, R100). -/
def readFrames (c : WireCodes) : List (List Byte) → Except WireError (List WireMessage)
  | [] => .ok []
  | header :: frames =>
    match decodeHeader c header with
    | .error e => .error e
    | .ok i =>
      if payloadBytes i = 0 then (readFrames c frames).map (⟨i, []⟩ :: ·)
      else match frames with
        | [] => .error .short
        | payload :: frames' =>
          if payload.length = payloadBytes i then (readFrames c frames').map (⟨i, payload⟩ :: ·)
          else .error (.badLength payload.length)

/-- The frames of a command: the header frame, and the payload frame if there is one (R80, R92). -/
def messageFrames (c : WireCodes) (m : WireMessage) : List (List Byte) :=
  headerFrame c m.command :: (if payloadBytes m.command = 0 then [] else [m.payload])

/-- The operation as the wire shows it: the host's `pay_valid` is not on the wire. -/
def onWire : Instr → Instr
  | .framebufferDraw fb x y w h _ => .framebufferDraw fb x y w h false
  | i => i

/-- The eight wire commands (R83). -/
def isWireCommand (i : Instr) : Bool := decide (9 ≤ opsel i) && decide (opsel i ≤ 16)

end Sys2Proof
end

