-- ==== Sys2Proof/Machine/State.lean ====
section
/-! DEFINITION. The state of the block (spec/10_state.md), of the environment around it
(spec/00_scope.md R6, R15, R21) and the observable trace (spec/20_memory.md R57, R58), all as plain
data; the reset state (R40, R210); the reasons a step can stop. -/

namespace Sys2Proof.Machine

/-! ## Byte spaces -/

/-- A sparse byte space in canonical form: addresses strictly rising, no entry equal to what an
unlisted address reads as (`Memory.wf`). It holds `PAY`, which the host owns (20 R50, R52). -/
abbrev Memory := List Host.Cell

/-! ## Results and responses -/

/-- How an operation ended: `Ok` or one of the eight error kinds (60 R180). The device-specific code
`P[p].dev_code` is the argument of `transferFailed` and exists for no other result (R33, 93 U12). -/
inductive Result where
  | ok
  | notInitialized
  | invalidArgument
  | invalidState
  | timeout
  | transferFailed (code : Nat)
  | outOfMemory
  | indexOutOfRange
  | sizeOverflow
  deriving DecidableEq, Repr

/-- What a response carries beside the result (70 R214): nothing, a color, or the view that
`lastReceived` gives, as it stands at the moment of the response. -/
inductive Value where
  | nothing
  | color (c : Color)
  | received (bytes : List Byte) (length : Nat)
  deriving DecidableEq, Repr

/-! ## The trace -/

/-- The three kinds of physical transfer (R15). -/
inductive XferKind where
  | tx
  | txrx
  | rx
  deriving DecidableEq, Repr

/-- The status of an environment event (R58). -/
inductive Status where
  | ok
  | fail (code : Nat)
  deriving DecidableEq, Repr

/-- The three resources of the session (R22). -/
inductive Resource where
  | bus
  | device
  | lock
  deriving DecidableEq, Repr

/-- One event of the trace (R58); an absent `tx` or `rx` is `none`. -/
inductive Event where
  | xfer (p : Nat) (kind : XferKind) (tx rx : Option (List Byte)) (status : Status)
  | openBus (status : Status)
  | openDevice (status : Status)
  | openLock (granted : Bool)
  | close (resource : Resource)
  | alloc (n : Nat) (granted : Bool)
  | free (n : Nat)
  deriving DecidableEq, Repr

/-! ## The transport session -/

/-- The shared session `S` (R22 to R25, R34). -/
structure Session where
  busValid : Bool
  devValid : Bool
  lockValid : Bool
  lockOwner : Option Nat
  rxCap : Nat
  rxBuf : List Byte
  rxLen : Nat
  rxStale : Bool
  deriving DecidableEq, Repr

/-- The session before the first `initialize` (R40). -/
def Session.reset : Session where
  busValid := false
  devValid := false
  lockValid := false
  lockOwner := none
  rxCap := 0
  rxBuf := []
  rxLen := 0
  rxStale := false

/-! ## The producer context -/

/-- The sequencer phase (R28). -/
inductive Phase where
  | idle
  | acq
  | xfer
  deriving DecidableEq, Repr

/-- The direction of a frame (R30). -/
inductive Dir where
  | send
  | recv
  deriving DecidableEq, Repr

/-- The byte source of a `SEND` frame (R30). -/
inductive Src where
  | hdr
  | pay
  | pat
  deriving DecidableEq, Repr

/-- One request the host has put up at a command port: the bytes of the operation, and the host's
memory behind its payload port for that operation (20 R52; constant for the operation, R221). -/
structure Request where
  words : List Byte
  pay : Memory
  deriving DecidableEq, Repr

/-- The context `P[p]` of one producer (R28 to R33, R35), its `PAY` and `PAT` spaces (20 R50, R53),
and the requests the host will issue on its port, the next one first. -/
structure Producer where
  phase : Phase
  cursor : Nat
  total : Nat
  dir : Dir
  src : Src
  payPending : Bool
  payTotal : Nat
  payValid : Bool
  hdr : List Byte
  hdrLen : Nat
  op : Instr
  win : List Byte
  pat : List Byte
  pay : Memory
  result : Result
  value : Value
  port : List Request
  deriving DecidableEq, Repr

/-- A producer context at reset. `phase` and `win` are R40's; the spec leaves the others unspecified,
and their values here are the model's (DESIGN CHOICE, log 8). -/
def Producer.reset : Producer where
  phase := .idle
  cursor := 0
  total := 0
  dir := .send
  src := .hdr
  payPending := false
  payTotal := 0
  payValid := false
  hdr := List.replicate 16 0
  hdrLen := 0
  op := .fromRGB 0 0 0
  win := []
  pat := []
  pay := []
  result := .ok
  value := .nothing
  port := []

/-! ## The environment -/

/-- What the world does at one step: let producer `p` take its enabled step, or assert the block's
reset input (R21, 70 R210). -/
inductive Move where
  | run (p : Nat)
  | reset
  deriving DecidableEq, Repr

/-- The environment's side (R6, R15, R21): the schedule and the answers to come, the next one first.
Where a list is empty the answer is a free value of Config. `draws` is the model's own counter: how
many free values and answers have been drawn. -/
structure Env where
  agenda : List Move
  channel : List XferAnswer
  opener : List OpenAnswer
  allocator : List Bool
  draws : Nat
  deriving DecidableEq, Repr

/-- Nothing foreseen: every move and every answer is free. -/
def Env.reset : Env where
  agenda := []
  channel := []
  opener := []
  allocator := []
  draws := 0

/-! ## The whole state -/

/-- The machine: the configuration (constant, R27), the session, the producers, the port whose
operation is being issued, the trace so far (oldest first) and the environment. -/
structure State where
  cfg : Config
  session : Session
  producers : List Producer
  cur : Nat
  trace : List Event
  env : Env
  deriving DecidableEq, Repr

/-- The reset state (R40, R210): the never-initialized session, every producer idle, an empty trace. -/
def State.reset : State where
  cfg := Config.atReset
  session := Session.reset
  producers := List.replicate Config.atReset.nProd Producer.reset
  cur := 0
  trace := []
  env := Env.reset

/-! ## Stops -/

/-- Sequencer states that R38 excludes: no rule gives the block a step there. No run from reset meets
one, so each of them is safe. -/
inductive Fault where
  /-- Raised by the chunk step: phase `XFER` of a producer that does not own the lock (R38 (c)). -/
  | transferWithoutLock (p : Nat)
  /-- Raised by the chunk step: phase `XFER` with no byte left to move (R38 (d)), or `MAX_CHUNK = 0`;
  a transfer has at least one byte (R15). -/
  | emptyTransfer (p : Nat)
  /-- Raised by the step of phase `ACQ` when the lock is already held by the waiting producer itself
  (41 R127: "necessarily `q != p`"). -/
  | waitsForItself (p : Nat)
  deriving DecidableEq, Repr

/-- Situations to which the spec gives no meaning. -/
inductive Refusal where
  /-- An instruction without a meaning in this model; raised by `exec` only. Safe. -/
  | notModelled (mnemonic : String)
  /-- Raised by `deinitialize` and `setReceiveCapacity` while a producer is in `ACQ` or `XFER`: "a model
  refuses such a schedule" (70 R222, 93 U3). Safe. -/
  | sessionInUse (mnemonic : String)
  /-- Raised by the issue step: bytes on the port that are no request (log 6). Safe. -/
  | malformedRequest (e : DecodeError)
  /-- Raised by the issue step: an operand wider than its field (30 R97). Safe. -/
  | operandTooWide
  /-- Raised by the step: the schedule names a port the block does not have (R6). Safe. -/
  | noSuchProducer (p : Nat)
  deriving DecidableEq, Repr

end Sys2Proof.Machine
end

