-- ==== Sys2Proof/Machine/Ops.lean ====
section
/-! DEFINITION. The named operations over memory, session, producers, trace and environment that every
meaning and every sequencer step is made of (spec/00_scope.md R13 to R16, spec/20_memory.md). -/

namespace Sys2Proof.Machine

/-! ## Byte spaces (R14, R50) -/

/-- What an unlisted address of `PAY` reads as (DESIGN CHOICE, log 9). -/
def payDefault : Byte := 0

/-- One byte of a sparse space. -/
def Memory.read : Memory → Nat → Byte
  | [], _ => payDefault
  | (a, b) :: m, x => if a = x then b else Memory.read m x

/-- Set one byte of a sparse space, keeping the canonical form. The block never writes `PAY` (R52);
this is how a host's memory is built. -/
def Memory.write : Memory → Nat → Byte → Memory
  | [], x, v => if v = payDefault then [] else [(x, v)]
  | (a, b) :: m, x, v =>
    if x < a then (if v = payDefault then (a, b) :: m else (x, v) :: (a, b) :: m)
    else if x = a then (if v = payDefault then m else (x, v) :: m)
    else (a, b) :: Memory.write m x v

/-- The canonical form: addresses strictly rising, no entry equal to `payDefault`. -/
def Memory.wf : Memory → Bool
  | [] => true
  | (a, b) :: m => decide (b ≠ payDefault) && m.all (fun c => decide (a < c.1)) && Memory.wf m

/-- Consecutive bytes set from address `a` on. -/
def Memory.writeBytes (m : Memory) (a : Nat) : List Byte → Memory
  | [] => m
  | b :: bs => Memory.writeBytes (m.write a b) (a + 1) bs

/-- `MemRead(PAY, a, n)` (R14): the bytes at `a .. a+n-1` in ascending order. -/
def Memory.readBytes (m : Memory) (a n : Nat) : List Byte := (List.range n).map fun i => m.read (a + i)

/-- `MemRead` of a dense space (`HDR`, `PAT`, `RXB`; R14). -/
def memRead (buf : List Byte) (a n : Nat) : List Byte := (buf.drop a).take n

/-- `MemWrite` of a dense space (R14): the bytes `v` at `a .. a+len(v)-1`. -/
def memWrite (buf : List Byte) (a : Nat) (v : List Byte) : List Byte :=
  buf.take a ++ v ++ buf.drop (a + v.length)

/-- `last_n(s, n)` (R11), and all of `s` where it is no longer than `n`. -/
def lastN (s : List Byte) (n : Nat) : List Byte := s.drop (s.length - n)

/-- `n` unspecified bytes: draw `d` of the free value (log 5). -/
def unspecifiedBytes (d n : Nat) : List Byte := (List.range n).map (Config.freeByte d)

/-- The bytes at index `n` and above become unspecified; those below stay. -/
def unspecifiedFrom (buf : List Byte) (n d : Nat) : List Byte :=
  buf.take n ++ (List.range (buf.length - n)).map fun i => Config.freeByte d (n + i)

/-! ## Reading and updating the state (R13) -/

/-- `P[p]`. -/
def State.producer (s : State) (p : Nat) : Producer := s.producers.getD p Producer.reset

/-- Update `P[p]`; a port the block does not have stays absent. -/
def State.setProducer (s : State) (p : Nat) (f : Producer → Producer) : State :=
  { s with producers := s.producers.modify p f }

/-- Update `S`. -/
def State.setSession (s : State) (f : Session → Session) : State := { s with session := f s.session }

/-- Append one event to the trace (R57). -/
def State.emit (s : State) (e : Event) : State := { s with trace := s.trace ++ [e] }

/-- `initialized(S)` (R23). -/
def Session.initialized (S : Session) : Bool := S.busValid && S.devValid && S.lockValid

/-- A capture buffer is configured (R25). -/
def Session.capturing (S : Session) : Bool := decide (0 < S.rxCap)

/-- Some producer is in phase `ACQ` or `XFER` (70 R222). -/
def State.inUse (s : State) : Bool := s.producers.any fun P => P.phase != .idle

/-- `capture_busy(S)` (41 R136). -/
def State.captureBusy (s : State) : Bool :=
  s.session.capturing && s.producers.any fun P => P.phase == .xfer

/-- `S.lock_owner <- None`. -/
def State.releaseLock (s : State) : State := s.setSession fun S => { S with lockOwner := none }

/-- The bytes of `RXB` from index `n` on become unspecified (R26, R34): one draw of the free value. -/
def State.unspecifyRxFrom (s : State) (n : Nat) : State :=
  { s with
    session := { s.session with rxBuf := unspecifiedFrom s.session.rxBuf n s.env.draws }
    env := { s.env with draws := s.env.draws + 1 } }

/-! ## Ending an operation (R16, 60 R194)

The block's analogue of taking an exception: nothing is saved and nothing is vectored; the result
goes to the issuing producer's port and its phase returns to `IDLE`. A rule that raises while the
producer holds the lock releases it first (60 R196). There is no return from it (60 R197). -/

/-- The operation of producer `p` ends: its result and response value are written, once. -/
def State.finish (s : State) (p : Nat) (result : Result) (value : Value) : State :=
  s.setProducer p fun P => { P with phase := .idle, result := result, value := value }

/-- `raise E` (R16). -/
def State.raise (s : State) (p : Nat) (e : Result) : State := s.finish p e .nothing

/-- `return Ok` (R16), with the value the response carries. -/
def State.returnOk (s : State) (p : Nat) (value : Value) : State := s.finish p .ok value

/-! ## The environment's answers (R15, R21; log 3, log 4) -/

/-- The move the world makes next. -/
def State.nextMove (s : State) : Move :=
  s.env.agenda.headD (.run (Config.nextProducer s.env.draws % s.producers.length))

/-- That move is made. -/
def State.moveTaken (s : State) : State :=
  { s with env := { s.env with agenda := s.env.agenda.tail, draws := s.env.draws + 1 } }

/-- An answer of the channel to a transfer of `k` bytes: exactly `k` bytes, those it does not name
free; a failure code has `ERR_BITS` bits. -/
def fitAnswer (errBits k d : Nat) : XferAnswer → XferAnswer
  | .ok rx => .ok ((List.range k).map fun i => rx.getD i (Config.freeByte d i))
  | .fail code => .fail (code % 2 ^ errBits)

/-- The answer of `Xfer` to a transfer of `k` bytes. -/
def State.channelAnswer (s : State) (k : Nat) : XferAnswer :=
  fitAnswer s.cfg.errBits k s.env.draws (s.env.channel.headD (Config.channelAnswer s.env.draws))

/-- The channel has answered. -/
def State.channelTaken (s : State) : State :=
  { s with env := { s.env with channel := s.env.channel.tail, draws := s.env.draws + 1 } }

/-- The status an opener's answer stands for; a failure code has `ERR_BITS` bits. -/
def openStatus (errBits : Nat) : OpenAnswer → Status
  | .ok => .ok
  | .fail code => .fail (code % 2 ^ errBits)

/-- The answer of `OpenBus(BUS_CFG)` or `AddDevice(BUS_CFG)`. -/
def State.openerAnswer (s : State) : Status :=
  openStatus s.cfg.errBits (s.env.opener.headD (Config.openerAnswer s.cfg.busCfg s.env.draws))

/-- The bus opener has answered. -/
def State.openerTaken (s : State) : State :=
  { s with env := { s.env with opener := s.env.opener.tail, draws := s.env.draws + 1 } }

/-- The answer of `Alloc(n)`. -/
def State.allocAnswer (s : State) (n : Nat) : Bool :=
  s.env.allocator.headD (Config.allocatorAnswer n s.env.draws)

/-- The answer of `CreateLock()`. -/
def State.lockAnswer (s : State) : Bool := s.env.allocator.headD (Config.lockAnswer s.env.draws)

/-- The allocator has answered. -/
def State.allocatorTaken (s : State) : State :=
  { s with env := { s.env with allocator := s.env.allocator.tail, draws := s.env.draws + 1 } }

/-! ## The command port (41 R125, 70 R223) -/

/-- The issue step takes the request off the port and latches the operation and the host's payload
memory (R32, R125, R221). -/
def State.accept (s : State) (p : Nat) (req : Request) (i : Instr) : State :=
  s.setProducer p fun P => { P with op := i, pay := req.pay, port := P.port.tail }

/-- `P[p].pay_valid` is latched from the request (R30). -/
def State.latchPayValid (s : State) (p : Nat) (valid : Bool) : State :=
  s.setProducer p fun P => { P with payValid := valid }

/-- An OPSEL that names no operation: the port answers `InvalidArgument`, nothing else changes (R99). -/
def State.rejectSelector (s : State) (p : Nat) : State :=
  (s.setProducer p fun P => { P with port := P.port.tail }).raise p .invalidArgument

/-! ## The reset input (70 R210, R211) -/

/-- Every field of the block goes to its reset value and the trace is emptied; the configuration and
what the host and the environment hold (requests not yet accepted, schedule, answers) stay. -/
def State.assertReset (s : State) : State :=
  { s with
    session := Session.reset
    producers := s.producers.map fun P => { Producer.reset with port := P.port }
    cur := 0
    trace := [] }

end Sys2Proof.Machine
end

