-- ==== Sys2Proof/Machine/Operands.lean ====
section
/-! DEFINITION. What the operations compute from their operands: the Color Model's arithmetic
(spec/40_color_model.md), the framebuffer addressing rules (spec/43_framebuffer_commands.md R160,
R163, R166), chunk sizes (spec/20_memory.md R61) and the self-test pattern (spec/44_diagnostics.md
R172). -/

namespace Sys2Proof.Machine

/-! ## Color Model -/

/-- `num / den` rounded to the nearest integer, ties away from zero (R111); `den > 0`. -/
def roundHalfAway (num : Int) (den : Nat) : Int :=
  if 0 ≤ num then (2 * num + den) / (2 * den) else -((2 * -num + den) / (2 * den))

/-- The result clamped to `0 .. 255` (R111). -/
def clampByte (n : Int) : Byte :=
  if n < 0 then 0 else if 255 < n then 255 else BitVec.ofNat 8 n.toNat

/-- One channel of `fromRGBA` (R111): the exact product, rounded once, then clamped. -/
def scaleChannel (c : Byte) (alpha : Alpha) : Byte :=
  clampByte (roundHalfAway ((c.toNat : Int) * alpha.num) alpha.den)

/-- The region of a hue (R113 (a)): `h div 43`; the sixth region is 41 values long (R112). -/
def hueRegion (hue : Byte) : Nat := hue.toNat / 43

/-- The default `HSV_FN` of R113. -/
def hsvStandard (hue sat val : Byte) : Color :=
  if sat = 0 then ⟨val, val, val⟩
  else
    let s := sat.toNat
    let v := val.toNat
    let region := hueRegion hue
    let remainder := (hue.toNat - region * 43) * 6
    let p := BitVec.ofNat 8 (v * (255 - s) / 256)
    let q := BitVec.ofNat 8 (v * (255 - s * remainder / 256) / 256)
    let t := BitVec.ofNat 8 (v * (255 - s * (255 - remainder) / 256) / 256)
    match region with
    | 0 => ⟨val, t, p⟩
    | 1 => ⟨q, val, p⟩
    | 2 => ⟨p, val, t⟩
    | 3 => ⟨p, q, val⟩
    | 4 => ⟨t, p, val⟩
    | _ => ⟨val, p, q⟩

/-- The configured `HSV_FN` (R112, R113). Of a routine other than the default only `s = 0` is known. -/
def hsvFn (c : Config) (hue sat val : Byte) : Color :=
  match c.hsv with
  | .standard => hsvStandard hue sat val
  | .other => if sat = 0 then ⟨val, val, val⟩ else Config.otherHsv hue sat val

/-! ## Framebuffer addressing -/

/-- `CheckIndex` passes (60 R186): the index is below `FB_COUNT`. -/
def indexInRange (c : Config) (fb : Byte) : Bool := decide (fb.toNat < c.fbCount)

/-- `mul_size(a, b)` (R12): the product in the platform's size type. -/
def mulSize (sizeBits a b : Nat) : Nat := a * b % 2 ^ sizeBits

/-- `CheckArea(w, h)` (R163): the area, or nothing where the product overflows. -/
def checkArea (sizeBits : Nat) (w h : U16) : Option Nat :=
  let prod := mulSize sizeBits w.toNat h.toNat
  if w ≠ 0 ∧ prod / w.toNat ≠ h.toNat then none else some prod

/-- The payload length (R166): three bytes a pixel, exact. -/
def payloadLength (area : Nat) : Nat := 3 * area

/-! ## Transport -/

/-- The size of the next chunk (R61). -/
def chunkBytes (maxChunk total cursor : Nat) : Nat := min (total - cursor) maxChunk

/-- `ceil_div` (R12). -/
def ceilDiv (a b : Nat) : Nat := (a + b - 1) / b

/-! ## Self-test -/

/-- `ST_PATTERN(m)` (R172): the fixed pattern with the marker at its offset. -/
def testPattern (c : Config) (marker : Byte) : List Byte :=
  c.pattern.bytes.set c.pattern.markOff marker

end Sys2Proof.Machine
end

