-- ==== Sys2Proof/Machine/Color.lean ====
section
/-! DEFINITION. The meanings of the Color Model operations (spec/40_color_model.md): they read no state
and write only the issuing producer's response (R115). -/

namespace Sys2Proof.Machine

/-- `fromRGB` (R110): the identity. -/
def execFromRGB (r g b : Byte) (s : State) : Host.Outcome State Fault Refusal :=
  .next (s.returnOk s.cur (.color ⟨r, g, b⟩))

/-- `fromRGBA` (R111): each channel scaled by alpha, rounded, clamped. -/
def execFromRGBA (r g b : Byte) (alpha : Alpha) (s : State) : Host.Outcome State Fault Refusal :=
  .next (s.returnOk s.cur (.color ⟨scaleChannel r alpha, scaleChannel g alpha, scaleChannel b alpha⟩))

/-- `fromHSV` (R112): the configured `HSV_FN`. -/
def execFromHSV (hue sat val : Byte) (s : State) : Host.Outcome State Fault Refusal :=
  .next (s.returnOk s.cur (.color (hsvFn s.cfg hue sat val)))

end Sys2Proof.Machine
end

