-- ==== Sys2Proof/Machine/Sequencer.lean ====
section
/-! DEFINITION. The frame sequencer of spec/41_transport.md (R124 to R131) and the common shape of the
encoder operations (spec/42_display_commands.md R150). -/

namespace Sys2Proof.Machine

/-! ## Setting up a frame -/

/-- `BeginSend` (R124): the two prechecks, then the frame is set up and the producer waits for the lock. -/
def State.beginSend (s : State) (p : Nat) (src : Src) (valid : Bool) (total : Nat) : State :=
  if s.session.initialized = false then s.raise p .notInitialized
  else if 0 < total ∧ valid = false then s.raise p .invalidArgument
  else s.setProducer p fun P =>
    { P with dir := .send, src := src, total := total, cursor := 0, win := [], phase := .acq }

/-- The checks and the set-up of `readInto` (R134). -/
def State.beginReceive (s : State) (p n : Nat) : State :=
  if s.session.initialized = false then s.raise p .notInitialized
  else if s.session.rxCap = 0 then s.raise p .invalidState
  else if s.session.rxCap < n then s.raise p .invalidArgument
  else s.setProducer p fun P =>
    { P with dir := .recv, total := n, cursor := 0, payPending := false, phase := .acq }

/-- `EncoderOp` after its validation has passed (R150): the whole header frame is built in `hdr`, a
payload of `payLen` bytes is announced, and the header's send begins. -/
def State.encoderOp (s : State) (p : Nat) (frame : List Byte) (payLen : Nat) : State :=
  (s.setProducer p fun P =>
    { P with
      hdr := memWrite P.hdr 0 frame, hdrLen := frame.length
      payPending := decide (0 < payLen), payTotal := payLen }).beginSend p .hdr true frame.length

/-! ## The end of a frame -/

/-- The capture commit of a `send` (R129): `RXB[0 .. n)` is the window; what lies above is unspecified.
The window, which belongs to the frame in progress only (R35), is empty from then on, so that its
length stays within every later capacity (R38 (f); DEDUCED, log 11). -/
def State.commitWindow (s : State) (p : Nat) : State :=
  let win := (s.producer p).win
  ((s.setSession fun S =>
    { S with rxBuf := memWrite S.rxBuf 0 win, rxLen := win.length, rxStale := false }).unspecifyRxFrom
      win.length).setProducer p fun P => { P with win := [] }

/-- The commit of a `readInto` (R129): the length is recorded; what lies above it is unspecified. -/
def State.commitReceive (s : State) (p : Nat) : State :=
  let total := (s.producer p).total
  (s.setSession fun S => { S with rxLen := total, rxStale := false }).unspecifyRxFrom total

/-- `FrameDone` (R129): commit the capture, release the lock, then the payload frame or `Ok`. -/
def State.frameDone (s : State) (p : Nat) : State :=
  let P := s.producer p
  match P.dir with
  | .send =>
    let s1 := if s.session.capturing && decide (0 < P.total) then s.commitWindow p else s
    let s2 := s1.releaseLock
    if P.payPending then
      (s2.setProducer p fun Q => { Q with payPending := false }).beginSend p .pay P.payValid P.payTotal
    else s2.returnOk p .nothing
  | .recv => ((s.commitReceive p).releaseLock).returnOk p .nothing

/-- `ChunkFailed` (R130): the capture buffer goes stale, the lock is released, a pending payload is
dropped, and the operation ends with the channel's code. The window is dropped with its frame (R35,
R38 (f); DEDUCED, log 11). -/
def State.chunkFailed (s : State) (p : Nat) (code : Nat) : State :=
  let s1 := if s.session.capturing
    then (s.setSession fun S => { S with rxStale := true }).unspecifyRxFrom 0 else s
  ((s1.releaseLock).setProducer p fun P => { P with payPending := false, win := [] }).raise p
    (.transferFailed code)

/-! ## The steps of phase `ACQ` -/

/-- The acquire step (R126): a zero-length frame is done in the same step. -/
def State.acquireStep (s : State) (p : Nat) : State :=
  let s1 := s.setSession fun S => { S with lockOwner := some p }
  if (s.producer p).total = 0 then s1.frameDone p
  else s1.setProducer p fun P => { P with phase := .xfer }

/-- The time-out step (R127). -/
def State.timeoutStep (s : State) (p : Nat) : State := s.raise p .timeout

/-- The enabled step of a producer that waits for the lock (R126, R127). A producer that goes on
waiting is one the schedule does not pick. -/
def State.waitStep (s : State) (p : Nat) : Host.Outcome State Fault Refusal :=
  match s.session.lockOwner with
  | none => .next (s.acquireStep p)
  | some q => if q = p then .fault (.waitsForItself p) else .next (s.timeoutStep p)

/-! ## The chunk step -/

/-- The size `k` of the chunk producer `p` moves next (R128). -/
def State.chunkSize (s : State) (p : Nat) : Nat :=
  chunkBytes s.cfg.maxChunk (s.producer p).total (s.producer p).cursor

/-- The bytes handed to the channel (R128, R139): read at the byte cursor from the frame's source. -/
def Producer.chunkData (P : Producer) (k : Nat) : List Byte :=
  match P.src with
  | .hdr => memRead P.hdr P.cursor k
  | .pay => P.pay.readBytes P.cursor k
  | .pat => memRead P.pat P.cursor k

/-- The kind of the transfer (R128). -/
def State.chunkKind (s : State) (p : Nat) : XferKind :=
  match (s.producer p).dir with
  | .send => if s.session.capturing then .txrx else .tx
  | .recv => .rx

/-- The bytes of the transfer as the trace shows them; absent for a receive (R58). -/
def State.chunkTx (s : State) (p : Nat) : Option (List Byte) :=
  match (s.producer p).dir with
  | .send => some ((s.producer p).chunkData (s.chunkSize p))
  | .recv => none

/-- The received bytes as the trace shows them; absent where they are discarded (R58). -/
def State.chunkRx (s : State) (p : Nat) (rx : List Byte) : Option (List Byte) :=
  match s.chunkKind p with
  | .tx => none
  | .txrx => some rx
  | .rx => some rx

/-- What a successful chunk stores (R128): the capture window of a `SEND`, `RXB` of a `RECV`. -/
def State.storeChunk (s : State) (p : Nat) (rx : List Byte) : State :=
  match (s.producer p).dir with
  | .send =>
    if s.session.capturing
    then s.setProducer p fun P => { P with win := lastN (P.win ++ rx) s.session.rxCap } else s
  | .recv => s.setSession fun S => { S with rxBuf := memWrite S.rxBuf (s.producer p).cursor rx }

/-- A successful chunk of `k` bytes (R128): store, advance the cursor, and end the frame if it is whole. -/
def State.chunkDone (s : State) (p k : Nat) (rx : List Byte) : State :=
  let s1 := (s.storeChunk p rx).setProducer p fun P => { P with cursor := P.cursor + k }
  if (s.producer p).cursor + k = (s.producer p).total then s1.frameDone p else s1

/-- One physical transfer (R128): the channel answers, the trace records it, the frame goes on, ends
or fails. -/
def State.transferChunk (s : State) (p : Nat) : State :=
  let k := s.chunkSize p
  match s.channelAnswer k with
  | .ok rx =>
    ((s.channelTaken).emit (.xfer p (s.chunkKind p) (s.chunkTx p) (s.chunkRx p rx) .ok)).chunkDone p k rx
  | .fail code =>
    ((s.channelTaken).emit (.xfer p (s.chunkKind p) (s.chunkTx p) none (.fail code))).chunkFailed p code

/-- The chunk step (R128). -/
def State.chunkStep (s : State) (p : Nat) : Host.Outcome State Fault Refusal :=
  if s.session.lockOwner ≠ some p then .fault (.transferWithoutLock p)
  else if s.chunkSize p = 0 then .fault (.emptyTransfer p)
  else .next (s.transferChunk p)

end Sys2Proof.Machine
end

