-- ==== Sys2Proof/Machine/Diagnostics.lean ====
section
/-! DEFINITION. The meanings of the Diagnostics Hooks (spec/44_diagnostics.md): the issue step of each;
the frame then moves by the sequencer's steps. Replies are seen only through the capture buffer (R174). -/

namespace Sys2Proof.Machine

/-- `misc-hwinfo` (R170). -/
def execMiscHwinfo (s : State) : Host.Outcome State Fault Refusal :=
  .next (s.encoderOp s.cur (frameHwinfo s.cfg.codes) 0)

/-- `misc-stat` (R171). -/
def execMiscStat (s : State) : Host.Outcome State Fault Refusal :=
  .next (s.encoderOp s.cur (frameStat s.cfg.codes) 0)

/-- `self-test` (R173): the whole pattern is built in `PAT`, then sent raw. -/
def execSelfTest (marker : Byte) (s : State) : Host.Outcome State Fault Refusal :=
  let pattern := testPattern s.cfg marker
  .next ((s.setProducer s.cur fun P => { P with pat := pattern, payPending := false }).beginSend
    s.cur .pat true pattern.length)

end Sys2Proof.Machine
end

