-- ==== Sys2Proof/Machine/Display.lean ====
section
/-! DEFINITION. The meanings of the display commands (spec/42_display_commands.md): the issue step of
each; the header frame then moves by the sequencer's steps. -/

namespace Sys2Proof.Machine

/-- `display-init` (R151): nothing is validated. -/
def execDisplayInit (pin0 pin1 pin2 pin3 : Byte) (width height : U16) (s : State) :
    Host.Outcome State Fault Refusal :=
  .next (s.encoderOp s.cur (frameDisplayInit s.cfg.codes pin0 pin1 pin2 pin3 width height) 0)

/-- `display-deinit` (R152). -/
def execDisplayDeinit (s : State) : Host.Outcome State Fault Refusal :=
  .next (s.encoderOp s.cur (frameDisplayDeinit s.cfg.codes) 0)

/-- `display-flip` (R153): the index is checked before anything is built. -/
def execDisplayFlip (fb : Byte) (s : State) : Host.Outcome State Fault Refusal :=
  .next (if indexInRange s.cfg fb then s.encoderOp s.cur (frameDisplayFlip s.cfg.codes fb) 0
    else s.raise s.cur .indexOutOfRange)

end Sys2Proof.Machine
end

