-- ==== Sys2Proof/Machine/Framebuffer.lean ====
section
/-! DEFINITION. The meanings of the framebuffer commands (spec/43_framebuffer_commands.md): the issue
step of each; the frames then move by the sequencer's steps. -/

namespace Sys2Proof.Machine

/-- `framebuffer-clear` (R161). -/
def execFramebufferClear (fb : Byte) (color : Color) (s : State) : Host.Outcome State Fault Refusal :=
  .next (if indexInRange s.cfg fb then s.encoderOp s.cur (frameClear s.cfg.codes fb color) 0
    else s.raise s.cur .indexOutOfRange)

/-- `framebuffer-blit` (R162): both indices are checked, source first; no area check. -/
def execFramebufferBlit (srcFb dstFb : Byte) (srcX srcY dstX dstY w h : U16) (s : State) :
    Host.Outcome State Fault Refusal :=
  .next (if indexInRange s.cfg srcFb = false then s.raise s.cur .indexOutOfRange
    else if indexInRange s.cfg dstFb = false then s.raise s.cur .indexOutOfRange
    else s.encoderOp s.cur (frameBlit s.cfg.codes srcFb dstFb srcX srcY dstX dstY w h) 0)

/-- `framebuffer-draw` (R164): index, then area; the header frame announces a payload of three bytes a
pixel, none for an empty area. -/
def execFramebufferDraw (fb : Byte) (x y w h : U16) (payValid : Bool) (s : State) :
    Host.Outcome State Fault Refusal :=
  let s1 := s.latchPayValid s.cur payValid
  .next (if indexInRange s.cfg fb = false then s1.raise s.cur .indexOutOfRange
    else match checkArea s.cfg.sizeBits w h with
      | none => s1.raise s.cur .sizeOverflow
      | some area => s1.encoderOp s.cur (frameDraw s.cfg.codes fb x y w h) (payloadLength area))

end Sys2Proof.Machine
end

