-- ==== Sys2Proof/Machine/Transport.lean ====
section
/-! DEFINITION. The meanings of the Chunked Transport operations (spec/41_transport.md). Each is what
the issue step does (R125); the frames of `send` and `readInto` then move by the sequencer's steps. -/

namespace Sys2Proof.Machine

/-! ## Session life cycle -/

/-- Acquire the bus if it is missing (R121): the state after it, and the error if the opener failed. -/
def State.acquireBus (s : State) : State × Option Result :=
  if s.session.busValid then (s, none)
  else match s.openerAnswer with
    | .ok => (((s.openerTaken).emit (.openBus .ok)).setSession fun S => { S with busValid := true }, none)
    | .fail code => ((s.openerTaken).emit (.openBus (.fail code)), some (.transferFailed code))

/-- Attach the device if it is missing (R121). -/
def State.acquireDevice (s : State) : State × Option Result :=
  if s.session.devValid then (s, none)
  else match s.openerAnswer with
    | .ok => (((s.openerTaken).emit (.openDevice .ok)).setSession fun S => { S with devValid := true }, none)
    | .fail code => ((s.openerTaken).emit (.openDevice (.fail code)), some (.transferFailed code))

/-- Create the lock if it is missing (R121). A failed creation ends in `OutOfMemory` with the event
`OPEN(lock, fail)` traced and the bus and device bits kept (R121, R189 (b)), where R195 says that
`OutOfMemory` leaves the session and the trace as they were. DESIGN CHOICE, log 28. -/
def State.acquireLock (s : State) : State × Option Result :=
  if s.session.lockValid then (s, none)
  else if s.lockAnswer then
    (((s.allocatorTaken).emit (.openLock true)).setSession fun S =>
      { S with lockValid := true, lockOwner := none }, none)
  else ((s.allocatorTaken).emit (.openLock false), some .outOfMemory)

/-- Go on with the next resource unless one has failed. -/
def andThen (first : State × Option Result) (next : State → State × Option Result) : State × Option Result :=
  match first with
  | (s, none) => next s
  | (s, some e) => (s, some e)

/-- Bus, device, lock, in this order, stopping at the first failure and keeping what was created (R121). -/
def State.openSession (s : State) : State × Option Result :=
  andThen (andThen s.acquireBus State.acquireDevice) State.acquireLock

/-- The end of `initialize`: the error, or `Ok`. -/
def State.reply (p : Nat) : State × Option Result → State
  | (s, none) => s.returnOk p .nothing
  | (s, some e) => s.raise p e

/-- `initialize` (R121). An initialized session answers `Ok` and nothing happens. -/
def execInitializeSession (s : State) : Host.Outcome State Fault Refusal :=
  .next (if s.session.initialized then s.returnOk s.cur .nothing else State.reply s.cur s.openSession)

/-- Release the device handle if there is one (R122). -/
def State.releaseDevice (s : State) : State :=
  if s.session.devValid
  then (s.emit (.close .device)).setSession fun S => { S with devValid := false } else s

/-- Free the bus if it is open (R122). -/
def State.releaseBus (s : State) : State :=
  if s.session.busValid
  then (s.emit (.close .bus)).setSession fun S => { S with busValid := false } else s

/-- Destroy the lock if it exists (R122). -/
def State.destroyLock (s : State) : State :=
  if s.session.lockValid
  then (s.emit (.close .lock)).setSession fun S => { S with lockValid := false, lockOwner := none } else s

/-- `deinitialize` (R122): device, bus, lock; the capture buffer stays. Refused while a producer is in
`ACQ` or `XFER` (70 R222). -/
def execDeinitializeSession (s : State) : Host.Outcome State Fault Refusal :=
  if s.inUse then .refused (.sessionInUse "deinitialize")
  else .next (((s.releaseDevice).releaseBus).destroyLock.returnOk s.cur .nothing)

/-! ## send -/

/-- `send` (R123). -/
def execSend (payValid : Bool) (length : Nat) (s : State) : Host.Outcome State Fault Refusal :=
  .next (((s.latchPayValid s.cur payValid).setProducer s.cur fun P => { P with payPending := false }).beginSend
    s.cur .pay payValid length)

/-! ## The capture-buffer controller -/

/-- `trace FREE(S.rx_cap)` if a buffer is configured (R133). -/
def State.freeCapture (s : State) : State :=
  if s.session.capturing then s.emit (.free s.session.rxCap) else s

/-- A capture buffer of `n` zero bytes, or none for `n = 0` (R133). -/
def State.installCapture (s : State) (n : Nat) : State :=
  s.setSession fun S => { S with rxCap := n, rxBuf := List.replicate n 0, rxLen := 0, rxStale := false }

/-- The capacity change of `setReceiveCapacity` (R133): allocate, then swap. A failed allocation leaves
the session as it was (R133, R189 (a)) and traces `ALLOC(n, fail)` (R133), where R195 says that
`OutOfMemory` leaves the trace too as it was. DESIGN CHOICE, log 28. -/
def State.changeCapacity (s : State) (p n : Nat) : State :=
  if n = 0 then ((s.freeCapture).installCapture 0).returnOk p .nothing
  else if s.allocAnswer n then
    ((((s.allocatorTaken).emit (.alloc n true)).freeCapture).installCapture n).returnOk p .nothing
  else ((s.allocatorTaken).emit (.alloc n false)).raise p .outOfMemory

/-- `setReceiveCapacity` (R133). Without a capture unit the selector names no operation (R99): the port's
decoder says so first, and the meaning gives the same answer. While a producer is in `ACQ` or `XFER`
it is refused (70 R222). -/
def execSetReceiveCapacity (n : Nat) (s : State) : Host.Outcome State Fault Refusal :=
  if s.cfg.hasCapture = false then .next (s.raise s.cur .invalidArgument)
  else if s.inUse then .refused (.sessionInUse "setReceiveCapacity")
  else .next (s.changeCapacity s.cur n)

/-- `readInto` (R134). Without a capture unit the selector names no operation (R99). -/
def execReadInto (n : Nat) (s : State) : Host.Outcome State Fault Refusal :=
  .next (if s.cfg.hasCapture = false then s.raise s.cur .invalidArgument else s.beginReceive s.cur n)

/-- The bytes `lastReceived` shows (R136): none without a buffer; unspecified while the buffer is stale
or a frame is moving; else `RXB`. -/
def State.receivedBytes (s : State) : List Byte :=
  if s.session.rxCap = 0 then []
  else if s.session.rxStale || s.captureBusy then unspecifiedBytes s.env.draws s.session.rxCap
  else s.session.rxBuf

/-- A draw of the free value has been made. -/
def State.drawn (s : State) : State := { s with env := { s.env with draws := s.env.draws + 1 } }

/-- `lastReceived` (R136). The response is a view of `RXB`; it is recorded as it stands at the response.
Without a capture unit the selector names no operation (R99). -/
def execLastReceived (s : State) : Host.Outcome State Fault Refusal :=
  .next (if s.cfg.hasCapture = false then s.raise s.cur .invalidArgument
    else (s.drawn).returnOk s.cur (.received s.receivedBytes s.session.rxLen))

end Sys2Proof.Machine
end

