-- ==== Sys2Proof/Machine/Dispatch.lean ====
section
/-! DEFINITION. One arm per operation of spec/30_encoding.md R96. -/

namespace Sys2Proof.Machine

def exec (i : Instr) (s : State) : Host.Outcome State Fault Refusal :=
  match i with
  | .fromRGB r g b => Sys2Proof.Machine.execFromRGB r g b s
  | .fromRGBA r g b alpha => Sys2Proof.Machine.execFromRGBA r g b alpha s
  | .fromHSV hue sat val => Sys2Proof.Machine.execFromHSV hue sat val s
  | .initializeSession => Sys2Proof.Machine.execInitializeSession s
  | .send payValid length => Sys2Proof.Machine.execSend payValid length s
  | .setReceiveCapacity n => Sys2Proof.Machine.execSetReceiveCapacity n s
  | .readInto n => Sys2Proof.Machine.execReadInto n s
  | .lastReceived => Sys2Proof.Machine.execLastReceived s
  | .deinitializeSession => Sys2Proof.Machine.execDeinitializeSession s
  | .displayInit pin0 pin1 pin2 pin3 width height => Sys2Proof.Machine.execDisplayInit pin0 pin1 pin2 pin3 width height s
  | .displayDeinit => Sys2Proof.Machine.execDisplayDeinit s
  | .displayFlip fb => Sys2Proof.Machine.execDisplayFlip fb s
  | .framebufferClear fb color => Sys2Proof.Machine.execFramebufferClear fb color s
  | .framebufferBlit srcFb dstFb srcX srcY dstX dstY w h => Sys2Proof.Machine.execFramebufferBlit srcFb dstFb srcX srcY dstX dstY w h s
  | .framebufferDraw fb x y w h payValid => Sys2Proof.Machine.execFramebufferDraw fb x y w h payValid s
  | .miscHwinfo => Sys2Proof.Machine.execMiscHwinfo s
  | .miscStat => Sys2Proof.Machine.execMiscStat s
  | .selfTest marker => Sys2Proof.Machine.execSelfTest marker s

end Sys2Proof.Machine
end

