-- ==== Sys2Proof/Machine/Step.lean ====
section
/-! DEFINITION. One step of the machine: the world picks a producer (or asserts the reset input), and
that producer takes its one enabled step (spec/41_transport.md R125 to R131, spec/00_scope.md R6). -/

namespace Sys2Proof.Machine

/-- The issue step of an idle producer (R125): read the next request from the port, latch it, run the
operation. With no request nothing happens (70 R210); an unassigned OPSEL is answered (R99). -/
def issueStep (s : State) (p : Nat) : Host.Outcome State Fault Refusal :=
  match (s.producer p).port with
  | [] => .next s
  | req :: _ =>
    match decodePort s.cfg.hasCapture req.words with
    | .ok i =>
      if i.wellFormed s.cfg.sizeBits then exec i (s.accept p req i) else .refused .operandTooWide
    | .error (.unassigned _) => .next (s.rejectSelector p)
    | .error e => .refused (.malformedRequest e)

/-- The enabled step of producer `p` (R28, R131). -/
def producerStep (s : State) (p : Nat) : Host.Outcome State Fault Refusal :=
  match (s.producer p).phase with
  | .idle => issueStep s p
  | .acq => s.waitStep p
  | .xfer => s.chunkStep p

/-- The state in which producer `p` steps: the move is consumed, and `p` is the current port. -/
def State.scheduled (s : State) (p : Nat) : State := { s.moveTaken with cur := p }

/-- One step. -/
def step (s : State) : Host.Outcome State Fault Refusal :=
  match s.nextMove with
  | .reset => .next (s.moveTaken).assertReset
  | .run p =>
    if p < s.producers.length then producerStep (s.scheduled p) p else .refused (.noSuchProducer p)

/-- The first idle producer: the one that can be given a request (70 R223). -/
def State.firstIdle (s : State) : Nat := s.producers.findIdx fun P => P.phase == .idle

/-- `s` with the request word `w` next on the port of the first idle producer, and that producer
scheduled next. This stands for the host issuing the request (log 10). -/
def State.withFetchWord (s : State) (nbits w : Nat) : State :=
  let s1 := s.setProducer s.firstIdle fun P => { P with port := ⟨tableWordBytes nbits w, []⟩ :: P.port }
  { s1 with env := { s1.env with agenda := .run s.firstIdle :: s1.env.agenda } }

end Sys2Proof.Machine
end

