-- ==== Sys2Proof/Machine/Flags.lean ====
section
/-! DEFINITION. The status of an operation as the port shows it (spec/10_state.md R33,
spec/60_exceptions.md R181). The block has no condition codes, carry or overflow flags (R33). -/

namespace Sys2Proof.Machine

/-- The 4-bit result code (R181); codes 9 to 15 are never produced. -/
def resultCode : Result → BitVec 4
  | .ok => 0
  | .notInitialized => 1
  | .invalidArgument => 2
  | .invalidState => 3
  | .timeout => 4
  | .transferFailed _ => 5
  | .outOfMemory => 6
  | .indexOutOfRange => 7
  | .sizeOverflow => 8

/-- `dev_code`: present exactly when the result is `TransferFailed` (R33, 93 U12). -/
def devCode : Result → Option Nat
  | .transferFailed code => some code
  | .ok => none
  | .notInitialized => none
  | .invalidArgument => none
  | .invalidState => none
  | .timeout => none
  | .outOfMemory => none
  | .indexOutOfRange => none
  | .sizeOverflow => none

/-- The code fits `ERR_BITS` bits (R181). -/
def Result.fits (errBits : Nat) (r : Result) : Bool :=
  match devCode r with
  | some code => decide (code < 2 ^ errBits)
  | none => true

end Sys2Proof.Machine
end

