-- ==== Sys2Proof/Safety.lean ====
section
/-! DEFINITION. What a safe run is, in the terms the statements use: the invariants of spec/10_state.md
R38 with the widths and lengths of R25 to R33, quiescence (spec/70_reset_and_hazards.md R213), and
which errors an operation may end with (spec/60_exceptions.md R191). -/

namespace Sys2Proof.Machine

/-- A producer is between requests (R28). -/
def Producer.active (P : Producer) : Prop := P.phase ≠ .idle

/-- What R26, R29, R30, R31, R35 and R38 (d), (e), (f) say of one producer context: a payload is pending
only while its non-empty header frame is under way, and bytes stand in the window only while the
`send` they belong to is moving (log 11). -/
structure Producer.Inv (c : Config) (rxCap : Nat) (P : Producer) : Prop where
  hdrBytes : P.hdr.length = 16
  hdrLen_le : P.hdrLen ≤ 16
  cursor_le : P.cursor ≤ P.total
  cursor_lt : P.phase = .xfer → P.cursor < P.total
  cursor_zero : P.phase = .acq → P.cursor = 0
  total_width : P.total < 2 ^ c.lenBits
  payTotal_width : P.payTotal < 2 ^ c.lenBits
  win_le : P.win.length ≤ rxCap
  win_live : P.win ≠ [] → P.phase = .xfer ∧ P.dir = .send
  recv_le : P.phase ≠ .idle → P.dir = .recv → P.total ≤ rxCap
  hdr_frame : P.phase ≠ .idle → P.dir = .send → P.src = .hdr → P.total = P.hdrLen
  pat_frame : P.phase ≠ .idle → P.dir = .send → P.src = .pat → P.total = P.pat.length
  pending_header : P.phase ≠ .idle → P.payPending = true →
    P.dir = .send ∧ P.src = .hdr ∧ 0 < P.total ∧ 0 < P.payTotal
  code_width : P.result.fits c.errBits = true
  pay_canonical : Memory.wf P.pay = true
  port_canonical : ∀ r ∈ P.port, Memory.wf r.pay = true

/-- The invariant of the reachable states: R38 (a) to (f), the shape of the capture buffer (R25), the
constraints on the configuration (R7, R8), and that an operation in progress has a session
(41 R121 (f)). -/
structure State.Inv (s : State) : Prop where
  config : s.cfg.wf = true
  ports : s.producers.length = s.cfg.nProd
  rxLen_le : s.session.rxLen ≤ s.session.rxCap
  rxBuf_length : s.session.rxBuf.length = s.session.rxCap
  rxCap_width : s.session.rxCap < 2 ^ s.cfg.sizeBits
  no_capture : s.cfg.hasCapture = false → s.session.rxCap = 0
  owner_valid : s.session.lockOwner ≠ none → s.session.lockValid = true
  owner_exists : ∀ q, s.session.lockOwner = some q → q < s.producers.length
  xfer_iff_owner : ∀ p, p < s.producers.length →
    ((s.producer p).phase = .xfer ↔ s.session.lockOwner = some p)
  active_session : ∀ p, p < s.producers.length →
    (s.producer p).phase ≠ .idle → s.session.initialized = true
  producers_ok : ∀ p, p < s.producers.length → (s.producer p).Inv s.cfg s.session.rxCap

/-- Every producer is in `IDLE` (R213). -/
def State.quiescent (s : State) : Bool := !s.inUse

/-- The producer whose physical transfer an event records. -/
def Event.transferOf : Event → Option Nat
  | .xfer p _ _ _ _ => some p
  | .openBus _ => none
  | .openDevice _ => none
  | .openLock _ => none
  | .close _ => none
  | .alloc _ _ => none
  | .free _ => none

/-- The bytes an event hands to the channel. -/
def Event.sent : Event → List Byte
  | .xfer _ _ (some tx) _ _ => tx
  | .xfer _ _ none _ _ => []
  | .openBus _ => []
  | .openDevice _ => []
  | .openLock _ => []
  | .close _ => []
  | .alloc _ _ => []
  | .free _ => []

/-- The bytes an event records as received. -/
def Event.returned : Event → List Byte
  | .xfer _ _ _ (some rx) _ => rx
  | .xfer _ _ _ none _ => []
  | .openBus _ => []
  | .openDevice _ => []
  | .openLock _ => []
  | .close _ => []
  | .alloc _ _ => []
  | .free _ => []

/-- The number of bytes of a physical transfer that the trace shows: those sent, or those received. -/
def Event.size (e : Event) : Nat := max e.sent.length e.returned.length

/-- The bytes that events put on the wire, in order (R100): what a decoder of the wire is given. -/
def wireBytes (events : List Event) : List Byte := (events.map Event.sent).flatten

/-- The bytes of the frame a producer is sending, from its cursor on (20 R51, R52, R53). -/
def Producer.remaining (P : Producer) : List Byte :=
  match P.src with
  | .hdr => (P.hdr.take P.total).drop P.cursor
  | .pay => P.pay.readBytes P.cursor (P.total - P.cursor)
  | .pat => (P.pat.take P.total).drop P.cursor

/-- A transfer operation: one that may call `Xfer` (41 R120). -/
def isTransferOp (i : Instr) : Bool :=
  decide (opsel i = 0x04) || decide (opsel i = 0x06) || decide (9 ≤ opsel i)

/-- The framebuffer indices among an operation's operands, in the order they are checked (R160, R193). -/
def indexOperands : Instr → List Byte
  | .displayFlip fb => [fb]
  | .framebufferClear fb _ => [fb]
  | .framebufferBlit srcFb dstFb _ _ _ _ _ _ => [srcFb, dstFb]
  | .framebufferDraw fb _ _ _ _ _ => [fb]
  | .fromRGB _ _ _ => []
  | .fromRGBA _ _ _ _ => []
  | .fromHSV _ _ _ => []
  | .initializeSession => []
  | .send _ _ => []
  | .setReceiveCapacity _ => []
  | .readInto _ => []
  | .lastReceived => []
  | .deinitializeSession => []
  | .displayInit _ _ _ _ _ _ => []
  | .displayDeinit => []
  | .miscHwinfo => []
  | .miscStat => []
  | .selfTest _ => []

/-- R191: the results an operation can end with. -/
def mayEnd (i : Instr) (r : Result) : Bool :=
  match r with
  | .ok => true
  | .notInitialized => decide (opsel i = 0x04) || decide (opsel i = 0x06) || decide (9 ≤ opsel i)
  | .invalidArgument => decide (opsel i = 0x04) || decide (opsel i = 0x06) || decide (opsel i = 0x0E)
  | .invalidState => decide (opsel i = 0x06)
  | .timeout => decide (opsel i = 0x04) || decide (opsel i = 0x06) || decide (9 ≤ opsel i)
  | .transferFailed _ =>
    decide (opsel i = 0x03) || decide (opsel i = 0x04) || decide (opsel i = 0x06) || decide (9 ≤ opsel i)
  | .outOfMemory => decide (opsel i = 0x03) || decide (opsel i = 0x05)
  | .indexOutOfRange => decide (0x0B ≤ opsel i) && decide (opsel i ≤ 0x0E)
  | .sizeOverflow => decide (opsel i = 0x0E)

end Sys2Proof.Machine
end

