-- ==== Sys2Proof/Certificates/Slice0/Obligations.lean ====
section
/-! DEFINITION. The statements for the provers: what the numbered rules of spec/ say the operations and
the sequencer do. A next state is written out as an update of the given one, so that each such
statement also says what is left unchanged (its frame). Statements about one operation speak of the
issuing port `s.cur`; statements about the sequencer speak of the step the world schedules next. -/

open Sys2Proof Sys2Proof.Machine

/-! ## Encodings -/

/-- Decoding an encoded request gives the operation back, for all eighteen operations and every operand
that is well formed. OPSEL is R96's; the operand layout is the model's choice (log 6). -/
def Obligations.RequestDecodesBack : Prop :=
  ∀ (sizeBits : Nat) (i : Instr) (rest : List Byte), i.wellFormed sizeBits = true →
    decode (encode i ++ rest) = .ok (i, rest)

/-- R100 with R84 to R91: the wire decoder reads every header frame back to its command, whatever the
(distinct) category and opcode bytes are. -/
def Obligations.HeaderFrameDecodesBack : Prop :=
  ∀ (c : WireCodes) (i : Instr), c.distinct = true → isWireCommand i = true →
    decodeHeader c (headerFrame c i) = .ok (onWire i)

/-- R84 to R91, R94: the header frames byte by byte, the low byte of a `u16` first. -/
def Obligations.HeaderFrameBytes : Prop :=
  ∀ (c : WireCodes) (p0 p1 p2 p3 fb srcFb dstFb : Byte) (color : Color) (a b u v w h : U16) (valid : Bool),
    let lo := fun x : U16 => x.extractLsb' 0 8
    let hi := fun x : U16 => x.extractLsb' 8 8
    headerFrame c (.displayInit p0 p1 p2 p3 w h) =
        [c.catHub75, c.opHub75Init, p0, p1, p2, p3, lo w, hi w, lo h, hi h] ∧
      headerFrame c .displayDeinit = [c.catHub75, c.opHub75Deinit] ∧
      headerFrame c (.displayFlip fb) = [c.catHub75, c.opHub75Flip, fb] ∧
      headerFrame c (.framebufferClear fb color) = [c.catFb, c.opFbClear, color.r, color.g, color.b, fb] ∧
      headerFrame c (.framebufferDraw fb a b w h valid) =
        [c.catFb, c.opFbDraw, lo a, hi a, lo b, hi b, lo w, hi w, lo h, hi h, fb] ∧
      headerFrame c (.framebufferBlit srcFb dstFb a b u v w h) =
        [c.catFb, c.opFbBlit, lo a, hi a, lo b, hi b, lo u, hi u, lo v, hi v, lo w, hi w, lo h, hi h,
          srcFb, dstFb] ∧
      headerFrame c .miscHwinfo = [c.catMisc, c.opMiscHwinfo] ∧
      headerFrame c .miscStat = [c.catMisc, c.opMiscStat]

/-- Words written out from R96's selectors (operand layout: log 6) and frames written out from the
tables of R84, R87 and R88 decode to the operations they stand for. -/
def Obligations.WrittenWordsDecode : Prop :=
  decodeTableWord 8 0b00000 = some (.fromRGB 0 0 0) ∧
    decodeTableWord 8 0b00011 = some .initializeSession ∧
    decodeTableWord 16 0b00000010_00001011 = some (.displayFlip 2) ∧
    decodeTableWord 8 0b10001 = some (.selfTest 0) ∧
    decodeTableWord 8 0b10010 = none ∧
    decodeHeader ⟨0, 1, 2, 0, 1, 2, 0, 1, 2, 0, 1⟩ [0, 0, 2, 8, 13, 14, 0x40, 0, 0x20, 0] =
      .ok (.displayInit 2 8 13 14 64 32) ∧
    decodeHeader ⟨0, 1, 2, 0, 1, 2, 0, 1, 2, 0, 1⟩ [1, 0, 255, 0, 0, 1] =
      .ok (.framebufferClear 1 ⟨255, 0, 0⟩) ∧
    decodeHeader ⟨0, 1, 2, 0, 1, 2, 0, 1, 2, 0, 1⟩ [1, 2, 1, 0, 2, 0, 2, 0, 1, 0, 0] =
      .ok (.framebufferDraw 0 1 2 2 1 false)

/-! ## The step -/

/-- R125: when the request next on the scheduled idle port decodes to a well-formed operation, the step
is `exec` of it, in the state with that port current, the move and the request consumed, and the
operation latched. That the request brings the host's payload memory with it, which then stays for the
operation (`pay := req.pay`), is the model's choice (log 20): R125 latches the operation alone and R70 (c)
takes no snapshot, while R221 makes the bytes constant. How a request reaches a port: log 10. -/
def Obligations.StepRunsDecodedRequest : Prop :=
  ∀ (s : State) (p : Nat) (req : Request) (more : List Request) (i : Instr),
    s.nextMove = .run p → p < s.producers.length → (s.producer p).phase = .idle →
    (s.producer p).port = req :: more → decodePort s.cfg.hasCapture req.words = .ok i →
    i.wellFormed s.cfg.sizeBits = true →
    step s = exec i ((s.scheduled p).setProducer p fun P => { P with op := i, pay := req.pay, port := more })

/-- R99: a selector `0x12` to `0x1F`, or `0x05` to `0x07` on a block without a capture unit, is answered
`InvalidArgument` in the same step; session, trace, staging buffer and all other state stay. -/
def Obligations.UnassignedSelectorAnswers : Prop :=
  ∀ (s : State) (p : Nat) (req : Request) (more : List Request) (sel : Byte) (rest : List Byte),
    s.nextMove = .run p → p < s.producers.length → (s.producer p).phase = .idle →
    (s.producer p).port = req :: more → req.words = sel :: rest →
    ((18 ≤ sel.toNat ∧ sel.toNat < 32) ∨ (s.cfg.hasCapture = false ∧ 5 ≤ sel.toNat ∧ sel.toNat ≤ 7)) →
    step s = .next ((s.scheduled p).setProducer p fun P =>
      { P with port := more, result := .invalidArgument, value := .nothing })

/-- 70 R210: an idle port without a request does nothing. -/
def Obligations.IdlePortWithoutRequestWaits : Prop :=
  ∀ (s : State) (p : Nat), s.nextMove = .run p → p < s.producers.length →
    (s.producer p).phase = .idle → (s.producer p).port = [] → step s = .next (s.scheduled p)

/-! ## Color Model -/

/-- R110: `fromRGB` has selector `0x00` and no wire frame, and answers its operands, whatever they are;
nothing else changes. -/
def Obligations.FromRgbAnswersOperands : Prop :=
  ∀ (r g b : Byte) (s : State),
    opsel (.fromRGB r g b) = 0x00 ∧ headerFrame s.cfg.codes (.fromRGB r g b) = [] ∧
      exec (.fromRGB r g b) s = .next (s.setProducer s.cur fun P =>
        { P with phase := .idle, result := .ok, value := .color ⟨r, g, b⟩ })

/-- R115: each color operation answers `Ok` with a color that depends on its operands and on the constant
configuration alone, in one step and in every state; no other state changes, no event is traced and
no wire frame exists. -/
def Obligations.ColorOperationsOnlyAnswer : Prop :=
  ∀ i : Instr, opsel i ≤ 0x02 →
    ∃ color : Config → Color, ∀ s : State, headerFrame s.cfg.codes i = [] ∧
      exec i s = .next (s.setProducer s.cur fun P =>
        { P with phase := .idle, result := .ok, value := .color (color s.cfg) })

/-- R111: each channel of `fromRGBA` is the exact product with alpha, rounded to the nearest integer with
ties away from zero, clamped to `0 .. 255`. (The tie rule is the spec's own choice, 92 D30.) -/
def Obligations.FromRgbaRoundsExactProduct : Prop :=
  ∀ (r g b : Byte) (alpha : Alpha) (s : State), alpha.wellFormed = true →
    let round := fun y : ℚ => if 0 ≤ y then ⌊y + 1 / 2⌋ else -⌊-y + 1 / 2⌋
    let out := fun c : Byte =>
      let n := round ((c.toNat : ℚ) * ((alpha.num : ℚ) / (alpha.den : ℚ)))
      if n < 0 then 0 else if 255 < n then 255 else n
    ∃ r' g' b' : Byte, (r'.toNat : ℤ) = out r ∧ (g'.toNat : ℤ) = out g ∧ (b'.toNat : ℤ) = out b ∧
      exec (.fromRGBA r g b alpha) s = .next (s.setProducer s.cur fun P =>
        { P with phase := .idle, result := .ok, value := .color ⟨r', g', b'⟩ })

/-- R111 (a), (b): `alpha = 1` gives `fromRGB`'s answer, `alpha = 0` and any negative alpha give black. -/
def Obligations.FromRgbaUnitZeroNegative : Prop :=
  ∀ (r g b : Byte) (alpha : Alpha) (s : State), alpha.wellFormed = true →
    (alpha.num = (alpha.den : ℤ) → exec (.fromRGBA r g b alpha) s = exec (.fromRGB r g b) s) ∧
      (alpha.num ≤ 0 → exec (.fromRGBA r g b alpha) s = exec (.fromRGB 0 0 0) s)

/-- R112: `fromHSV` answers the configured `HSV_FN`, which at zero saturation is gray for every hue and
every routine; nothing else changes. -/
def Obligations.FromHsvAnswersConfiguredRoutine : Prop :=
  ∀ (hue sat val : Byte) (s : State),
    ∃ c : Color, exec (.fromHSV hue sat val) s = .next (s.setProducer s.cur fun P =>
        { P with phase := .idle, result := .ok, value := .color c }) ∧
      c = hsvFn s.cfg hue sat val ∧ (sat = 0 → c = ⟨val, val, val⟩)

/-- R113's default routine, region by region, over the natural numbers. The routine is the spec's own
supply from general knowledge (93 G1). -/
def Obligations.DefaultHsvByRegion : Prop :=
  ∀ (cfg : Config) (hue sat val : Byte), cfg.hsv = .standard → sat ≠ 0 →
    let h := hue.toNat
    let s := sat.toNat
    let v := val.toNat
    let rem := h % 43 * 6
    let p := v * (255 - s) / 256
    let q := v * (255 - s * rem / 256) / 256
    let t := v * (255 - s * (255 - rem) / 256) / 256
    let c := hsvFn cfg hue sat val
    (h < 43 → (c.r.toNat, c.g.toNat, c.b.toNat) = (v, t, p)) ∧
      (43 ≤ h ∧ h < 86 → (c.r.toNat, c.g.toNat, c.b.toNat) = (q, v, p)) ∧
      (86 ≤ h ∧ h < 129 → (c.r.toNat, c.g.toNat, c.b.toNat) = (p, v, t)) ∧
      (129 ≤ h ∧ h < 172 → (c.r.toNat, c.g.toNat, c.b.toNat) = (p, q, v)) ∧
      (172 ≤ h ∧ h < 215 → (c.r.toNat, c.g.toNat, c.b.toNat) = (t, p, v)) ∧
      (215 ≤ h → (c.r.toNat, c.g.toNat, c.b.toNat) = (v, p, q))

/-! ## Session life cycle -/

/-- R121 (the answers as State lists them, log 3): `initialize` with every answer good opens exactly the
missing resources, in the order bus, device, lock, and answers `Ok`; the capture buffer and the other
producers stay. On an initialized session it does nothing else (case all three bits set). -/
def Obligations.InitializeOpensMissingResources : Prop :=
  ∀ s : State, 2 ≤ s.env.opener.length → (∀ a ∈ s.env.opener, a = .ok) → s.env.allocator.head? = some true →
    ∃ t : State, exec .initializeSession s = .next t ∧
      t.session = { s.session with
        busValid := true, devValid := true, lockValid := true
        lockOwner := if s.session.lockValid then s.session.lockOwner else none } ∧
      t.trace = s.trace ++ (if s.session.busValid then [] else [.openBus .ok])
        ++ (if s.session.devValid then [] else [.openDevice .ok])
        ++ (if s.session.lockValid then [] else [.openLock true]) ∧
      t.producers = s.producers.modify s.cur (fun P =>
        { P with phase := .idle, result := .ok, value := .nothing }) ∧
      t.cfg = s.cfg ∧ t.cur = s.cur ∧ t.env.agenda = s.env.agenda ∧ t.env.channel = s.env.channel

/-- R121 (the answers as State lists them, log 3): `initialize` stops at the first failure, keeps what it
has created, and answers `TransferFailed(code)` for the bus or the device and `OutOfMemory` for the
lock. From a partially initialized session (corner case b) the resources already there are neither
asked for again nor released. That the answer `OutOfMemory` keeps what was created and its events, against
R195, is the model's choice (log 28). -/
def Obligations.InitializeStopsAtFirstFailure : Prop :=
  ∀ (s : State) (code : Nat) (more : List OpenAnswer),
    let bus := if s.session.busValid then [] else [OpenAnswer.ok]
    let busOpen := if s.session.busValid then [] else [Event.openBus .ok]
    let deviceOpen := if s.session.devValid then [] else [Event.openDevice .ok]
    let ended := fun e : Result => s.producers.modify s.cur fun P =>
      { P with phase := .idle, result := e, value := .nothing }
    (s.session.busValid = false → s.env.opener = .fail code :: more →
      ∃ t : State, exec .initializeSession s = .next t ∧ t.session = s.session ∧
        t.trace = s.trace ++ [.openBus (.fail (code % 2 ^ s.cfg.errBits))] ∧
        t.producers = ended (.transferFailed (code % 2 ^ s.cfg.errBits))) ∧
    (s.session.devValid = false → s.env.opener = bus ++ .fail code :: more →
      ∃ t : State, exec .initializeSession s = .next t ∧ t.session = { s.session with busValid := true } ∧
        t.trace = s.trace ++ busOpen ++ [.openDevice (.fail (code % 2 ^ s.cfg.errBits))] ∧
        t.producers = ended (.transferFailed (code % 2 ^ s.cfg.errBits))) ∧
    (s.session.lockValid = false →
      s.env.opener = bus ++ (if s.session.devValid then [] else [.ok]) ++ more →
      s.env.allocator.head? = some false →
      ∃ t : State, exec .initializeSession s = .next t ∧
        t.session = { s.session with busValid := true, devValid := true } ∧
        t.trace = s.trace ++ busOpen ++ deviceOpen ++ [.openLock false] ∧
        t.producers = ended .outOfMemory)

/-- R122: on a block whose producers are all idle, `deinitialize` releases device, bus and lock, each only
if it is there, answers `Ok` and keeps the capture buffer. -/
def Obligations.DeinitializeReleasesWhatExists : Prop :=
  ∀ s : State, (∀ P ∈ s.producers, P.phase = .idle) →
    exec .deinitializeSession s = .next { s with
      session := { s.session with
        busValid := false, devValid := false, lockValid := false
        lockOwner := if s.session.lockValid then none else s.session.lockOwner }
      trace := s.trace ++ (if s.session.devValid then [.close .device] else [])
        ++ (if s.session.busValid then [.close .bus] else [])
        ++ (if s.session.lockValid then [.close .lock] else [])
      producers := s.producers.modify s.cur fun P =>
        { P with phase := .idle, result := .ok, value := .nothing } }

/-- 70 R222 (the refusal is log 16): `deinitialize` and `setReceiveCapacity` are given no meaning while a
producer is in `ACQ` or `XFER`. -/
def Obligations.SessionManagementRefusedInUse : Prop :=
  ∀ (s : State) (n : Nat), (∃ P ∈ s.producers, P.phase ≠ .idle) →
    exec .deinitializeSession s = .refused (.sessionInUse "deinitialize") ∧
      (s.cfg.hasCapture = true →
        exec (.setReceiveCapacity n) s = .refused (.sessionInUse "setReceiveCapacity"))

/-! ## send and the capture controller: the issue step -/

/-- R123, R124: a `send` on an initialized session with bytes present, or of length 0, sets up its frame
and waits for the lock. -/
def Obligations.SendSetsUpFrame : Prop :=
  ∀ (payValid : Bool) (length : Nat) (s : State), s.session.initialized = true →
    (length = 0 ∨ payValid = true) →
    exec (.send payValid length) s = .next (s.setProducer s.cur fun P =>
      { P with
        payValid := payValid, payPending := false, dir := .send, src := .pay
        total := length, cursor := 0, win := [], phase := .acq })

/-- R124, R183, R184: the prechecks of `send`, in their order; neither touches session or trace. -/
def Obligations.SendPrechecksInOrder : Prop :=
  ∀ (payValid : Bool) (length : Nat) (s : State),
    (s.session.initialized = false →
      exec (.send payValid length) s = .next (s.setProducer s.cur fun P =>
        { P with
          payValid := payValid, payPending := false
          phase := .idle, result := .notInitialized, value := .nothing })) ∧
    (s.session.initialized = true → 0 < length →
      exec (.send false length) s = .next (s.setProducer s.cur fun P =>
        { P with
          payValid := false, payPending := false
          phase := .idle, result := .invalidArgument, value := .nothing }))

/-- R133 with `n = 0`: the capture buffer is released and cleared, and the answer is `Ok`. -/
def Obligations.ZeroCapacityClearsCapture : Prop :=
  ∀ s : State, s.cfg.hasCapture = true → (∀ P ∈ s.producers, P.phase = .idle) →
    exec (.setReceiveCapacity 0) s = .next { s with
      session := { s.session with rxCap := 0, rxBuf := [], rxLen := 0, rxStale := false }
      trace := s.trace ++ (if 0 < s.session.rxCap then [.free s.session.rxCap] else [])
      producers := s.producers.modify s.cur fun P =>
        { P with phase := .idle, result := .ok, value := .nothing } }

/-- R133 with `n > 0`: allocate, then swap in a zero buffer of `n` bytes; a failed allocation leaves the
session as it was and answers `OutOfMemory`. That the failed allocation is in the trace, against R195, is
the model's choice (log 28). -/
def Obligations.CapacityChangeAllocatesThenSwaps : Prop :=
  ∀ (s : State) (n : Nat) (granted : Bool) (more : List Bool), s.cfg.hasCapture = true →
    (∀ P ∈ s.producers, P.phase = .idle) → 0 < n → s.env.allocator = granted :: more →
    exec (.setReceiveCapacity n) s = .next { s with
      session := if granted then
        { s.session with rxCap := n, rxBuf := List.replicate n 0, rxLen := 0, rxStale := false } else s.session
      trace := s.trace ++ [.alloc n granted]
        ++ (if granted ∧ 0 < s.session.rxCap then [.free s.session.rxCap] else [])
      env := { s.env with allocator := more, draws := s.env.draws + 1 }
      producers := s.producers.modify s.cur fun P =>
        { P with phase := .idle, result := if granted then .ok else .outOfMemory, value := .nothing } }

/-- R134: `readInto` on an initialized session with a capture buffer of at least `n` bytes sets up a
receive frame and waits for the lock. -/
def Obligations.ReadIntoSetsUpReceive : Prop :=
  ∀ (n : Nat) (s : State), s.cfg.hasCapture = true → s.session.initialized = true →
    0 < s.session.rxCap → n ≤ s.session.rxCap →
    exec (.readInto n) s = .next (s.setProducer s.cur fun P =>
      { P with dir := .recv, total := n, cursor := 0, payPending := false, phase := .acq })

/-- R134: the checks of `readInto`, in their order: session, capture buffer, length. -/
def Obligations.ReadIntoChecksInOrder : Prop :=
  ∀ (n : Nat) (s : State), s.cfg.hasCapture = true →
    let answer := fun e : Result => s.setProducer s.cur fun P =>
      { P with phase := .idle, result := e, value := .nothing }
    (s.session.initialized = false → exec (.readInto n) s = .next (answer .notInitialized)) ∧
      (s.session.initialized = true → s.session.rxCap = 0 →
        exec (.readInto n) s = .next (answer .invalidState)) ∧
      (s.session.initialized = true → 0 < s.session.rxCap → s.session.rxCap < n →
        exec (.readInto n) s = .next (answer .invalidArgument))

/-- R136 (unspecified bytes: log 5; the view as it stands at the response: log 13): `lastReceived` answers
`Ok` with the recorded length and, in this order: no bytes without a buffer; capacity many unspecified bytes (the free value, whatever it is) while the buffer is stale or
a producer is in `XFER`; the buffer otherwise. Only the model's draw counter changes beside it. -/
def Obligations.LastReceivedShowsBuffer : Prop :=
  ∀ s : State, s.cfg.hasCapture = true →
    let moving := ∃ P ∈ s.producers, P.phase = .xfer
    ∃ bytes : List Byte,
      exec .lastReceived s = .next (({ s with env := { s.env with draws := s.env.draws + 1 } }).setProducer s.cur
        fun P => { P with phase := .idle, result := .ok, value := .received bytes s.session.rxLen }) ∧
      (s.session.rxCap = 0 → bytes = []) ∧
      (0 < s.session.rxCap → (s.session.rxStale = true ∨ moving) →
        bytes = (List.range s.session.rxCap).map (Config.freeByte s.env.draws)) ∧
      (0 < s.session.rxCap → s.session.rxStale = false → ¬ moving → bytes = s.session.rxBuf)

/-! ## Encoder operations: the issue step -/

/-- R150 with R151, R152, R153: on an initialized session a display command (for `display-flip`, with its
index in range) builds its whole header frame in the staging buffer and waits for the lock; bytes of
the staging buffer beyond the frame, the session and the trace stay. -/
def Obligations.DisplayCommandsStageHeader : Prop :=
  ∀ (i : Instr) (s : State), s.session.initialized = true →
    ((∃ p0 p1 p2 p3 width height, i = .displayInit p0 p1 p2 p3 width height) ∨ i = .displayDeinit ∨
      (∃ fb : Byte, i = .displayFlip fb ∧ fb.toNat < s.cfg.fbCount)) →
    let frame := headerFrame s.cfg.codes i
    exec i s = .next (s.setProducer s.cur fun P =>
      { P with
        hdr := frame ++ P.hdr.drop frame.length, hdrLen := frame.length
        payPending := false, payTotal := 0, dir := .send, src := .hdr
        total := frame.length, cursor := 0, win := [], phase := .acq })

/-- R150 with R161, R162: the same of `framebuffer-clear` and `framebuffer-blit` with their indices in
range; no other operand is checked. -/
def Obligations.ClearAndBlitStageHeader : Prop :=
  ∀ (i : Instr) (s : State), s.session.initialized = true →
    ((∃ (fb : Byte) (color : Color), i = .framebufferClear fb color ∧ fb.toNat < s.cfg.fbCount) ∨
      (∃ (srcFb dstFb : Byte) (srcX srcY dstX dstY w h : U16),
        i = .framebufferBlit srcFb dstFb srcX srcY dstX dstY w h ∧ srcFb.toNat < s.cfg.fbCount ∧
          dstFb.toNat < s.cfg.fbCount)) →
    let frame := headerFrame s.cfg.codes i
    exec i s = .next (s.setProducer s.cur fun P =>
      { P with
        hdr := frame ++ P.hdr.drop frame.length, hdrLen := frame.length
        payPending := false, payTotal := 0, dir := .send, src := .hdr
        total := frame.length, cursor := 0, win := [], phase := .acq })

/-- R164, R166: a `framebuffer-draw` with its index in range and an area that fits builds its 11-byte
header and announces a payload of exactly `3 * w * h` bytes, none where `w` or `h` is 0; `pay_valid`
is latched and not yet looked at. -/
def Obligations.DrawStagesHeaderAndPayload : Prop :=
  ∀ (fb : Byte) (x y w h : U16) (payValid : Bool) (s : State), s.session.initialized = true →
    fb.toNat < s.cfg.fbCount → w.toNat * h.toNat < 2 ^ s.cfg.sizeBits →
    let frame := headerFrame s.cfg.codes (.framebufferDraw fb x y w h payValid)
    exec (.framebufferDraw fb x y w h payValid) s = .next (s.setProducer s.cur fun P =>
      { P with
        payValid := payValid, hdr := frame ++ P.hdr.drop 11, hdrLen := 11
        payPending := decide (w ≠ 0 ∧ h ≠ 0), payTotal := 3 * w.toNat * h.toNat
        dir := .send, src := .hdr, total := 11, cursor := 0, win := [], phase := .acq })

/-- R170, R171 with R150: on an initialized session a diagnostic query builds its two-byte header and
waits for the lock. -/
def Obligations.QueriesStageHeader : Prop :=
  ∀ (i : Instr) (s : State), s.session.initialized = true → (i = .miscHwinfo ∨ i = .miscStat) →
    exec i s = .next (s.setProducer s.cur fun P =>
      { P with
        hdr := [s.cfg.codes.catMisc,
          if i = .miscHwinfo then s.cfg.codes.opMiscHwinfo else s.cfg.codes.opMiscStat] ++ P.hdr.drop 2
        hdrLen := 2, payPending := false, payTotal := 0, dir := .send, src := .hdr
        total := 2, cursor := 0, win := [], phase := .acq })

/-- R172, R173: on an initialized session `self-test` builds the whole pattern in `PAT` before any
transfer, the fixed bytes with the marker at its one offset, and waits for the lock. -/
def Obligations.SelfTestBuildsPattern : Prop :=
  ∀ (marker : Byte) (s : State), s.session.initialized = true → s.cfg.wf = true →
    ∃ pattern : List Byte,
      exec (.selfTest marker) s = .next (s.setProducer s.cur fun P =>
        { P with
          pat := pattern, payPending := false, dir := .send, src := .pat
          total := pattern.length, cursor := 0, win := [], phase := .acq }) ∧
      pattern.length = s.cfg.pattern.bytes.length ∧ s.cfg.maxChunk < pattern.length ∧
      pattern[s.cfg.pattern.markOff]? = some marker ∧ pattern.head? ≠ pattern.getLast? ∧
      ∀ j, j ≠ s.cfg.pattern.markOff → pattern[j]? = s.cfg.pattern.bytes[j]?

/-- R186, R160: an operation with a framebuffer index not below `FB_COUNT` answers `IndexOutOfRange`
before anything is built and before the session is looked at: staging buffer, session and trace
stay. That a rejected draw has latched `pay_valid` is the model's reading of R30, where R186 says
"Effects: none" (DEDUCED, log 27). -/
def Obligations.IndexOutOfRangeRejected : Prop :=
  ∀ (fb other : Byte) (color : Color) (a b c d w h : U16) (payValid : Bool) (s : State),
    s.cfg.fbCount ≤ fb.toNat →
    let rejected := s.setProducer s.cur fun P =>
      { P with phase := .idle, result := .indexOutOfRange, value := .nothing }
    exec (.displayFlip fb) s = .next rejected ∧
      exec (.framebufferClear fb color) s = .next rejected ∧
      exec (.framebufferBlit fb other a b c d w h) s = .next rejected ∧
      exec (.framebufferBlit other fb a b c d w h) s = .next rejected ∧
      exec (.framebufferDraw fb a b w h payValid) s = .next (rejected.setProducer s.cur fun P =>
        { P with payValid := payValid })

/-- R163: the division test raises exactly when the true product does not fit the size type; otherwise it
yields the exact area. -/
def Obligations.AreaCheckIsExact : Prop :=
  ∀ (sizeBits : Nat) (w h : U16),
    (checkArea sizeBits w h = none ↔ 2 ^ sizeBits ≤ w.toNat * h.toNat) ∧
      (w.toNat * h.toNat < 2 ^ sizeBits → checkArea sizeBits w h = some (w.toNat * h.toNat))

/-- R164, R190: a draw in range whose area overflows answers `SizeOverflow`; nothing is built. With
`SIZE_BITS >= 32` that never happens (R163). That the rejected draw has latched `pay_valid` is the
model's reading of R30, where R190 says "Effects: none" (DEDUCED, log 27). -/
def Obligations.DrawOverflowRejected : Prop :=
  ∀ (fb : Byte) (x y w h : U16) (payValid : Bool) (s : State), fb.toNat < s.cfg.fbCount →
    (2 ^ s.cfg.sizeBits ≤ w.toNat * h.toNat →
      exec (.framebufferDraw fb x y w h payValid) s = .next (s.setProducer s.cur fun P =>
        { P with payValid := payValid, phase := .idle, result := .sizeOverflow, value := .nothing })) ∧
      (32 ≤ s.cfg.sizeBits → w.toNat * h.toNat < 2 ^ s.cfg.sizeBits)

/-- R183, R193, R195: on an uninitialized session every transfer operation ends in its issue step: with
`IndexOutOfRange` if a framebuffer index is out of range, else with `SizeOverflow` if a draw's area does
not fit, and otherwise with `NotInitialized`. Session and trace stay. A command that passes its own
checks has by then built its whole header frame; one that fails them has built nothing. -/
def Obligations.TransferOpsNeedSession : Prop :=
  ∀ (i : Instr) (s : State), isTransferOp i = true → s.session.initialized = false →
    s.cfg.hasCapture = true → s.cur < s.producers.length →
    let inRange := ∀ fb ∈ indexOperands i, fb.toNat < s.cfg.fbCount
    let fits := pixelArea i < 2 ^ s.cfg.sizeBits
    let P := s.producer s.cur
    let frame := headerFrame s.cfg.codes i
    ∃ t : State, exec i s = .next t ∧ t.session = s.session ∧ t.trace = s.trace ∧ t.env = s.env ∧
      t.cfg = s.cfg ∧ (∀ q, q ≠ s.cur → t.producer q = s.producer q) ∧
      (t.producer s.cur).phase = .idle ∧
      (¬ inRange → (t.producer s.cur).result = .indexOutOfRange) ∧
      (inRange → ¬ fits → (t.producer s.cur).result = .sizeOverflow) ∧
      (inRange → fits → (t.producer s.cur).result = .notInitialized) ∧
      (inRange ∧ fits ∧ isWireCommand i = true →
        (t.producer s.cur).hdr = frame ++ P.hdr.drop frame.length ∧ (t.producer s.cur).hdrLen = frame.length) ∧
      (¬ (inRange ∧ fits ∧ isWireCommand i = true) →
        (t.producer s.cur).hdr = P.hdr ∧ (t.producer s.cur).hdrLen = P.hdrLen)

/-- R191: whatever an operation's issue step ends with is a result its row of the table allows. -/
def Obligations.IssueResultsAsTabled : Prop :=
  ∀ (i : Instr) (s t : State), s.cur < s.producers.length → exec i s = .next t →
    s.cfg.hasCapture = true → (t.producer s.cur).phase = .idle →
    mayEnd i (t.producer s.cur).result = true

/-! ## The sequencer -/

/-- R126: a waiting producer that is scheduled while the lock is free takes it; a frame with bytes goes to
`XFER`, one without is done in the same step. While the lock is held a scheduled waiter neither takes
it nor goes to `XFER`, and the session stays as it is. R126 says that it waits; that a waiter which is
scheduled then times out, and that waiting is not being scheduled, is the model's choice (log 4). -/
def Obligations.AcquireTakesFreeLock : Prop :=
  ∀ (s : State) (p : Nat), s.nextMove = .run p → p < s.producers.length → (s.producer p).phase = .acq →
    let taken := (s.scheduled p).setSession fun S => { S with lockOwner := some p }
    (s.session.lockOwner = none → 0 < (s.producer p).total →
        step s = .next (taken.setProducer p fun P => { P with phase := .xfer })) ∧
      (s.session.lockOwner = none → (s.producer p).total = 0 → step s = .next (taken.frameDone p)) ∧
      (∀ (q : Nat) (t : State), s.session.lockOwner = some q → step s = .next t →
        t.session = s.session ∧ (t.producer p).phase ≠ .xfer)

/-- R123 (a), R126, R129: a `send` of length 0 takes and releases the lock in one step, makes no transfer,
leaves the capture buffer as it was and answers `Ok`. -/
def Obligations.ZeroLengthSendMakesNoTransfer : Prop :=
  ∀ (s : State) (p : Nat), s.nextMove = .run p → p < s.producers.length →
    (s.producer p).phase = .acq → s.session.lockOwner = none → (s.producer p).dir = .send →
    (s.producer p).total = 0 → (s.producer p).payPending = false →
    step s = .next ((s.scheduled p).setProducer p fun P =>
      { P with phase := .idle, result := .ok, value := .nothing })

/-- R127 (that such a producer times out and does not wait on is the schedule's choice, log 4): a waiting
producer scheduled while another holds the lock answers `Timeout`; no trace event, no
change to the session. -/
def Obligations.WaiterTimesOut : Prop :=
  ∀ (s : State) (p q : Nat), s.nextMove = .run p → p < s.producers.length →
    (s.producer p).phase = .acq → s.session.lockOwner = some q → q ≠ p →
    step s = .next ((s.scheduled p).setProducer p fun P =>
      { P with phase := .idle, result := .timeout, value := .nothing })

/-- R128 (schedule and answer as State lists them, log 3, log 4): a successful chunk of a `SEND` that is
not the frame's last moves exactly `min(total - cursor, MAX_CHUNK)`
bytes from the frame's source at the cursor, records them, keeps the window of a capturing send, and
advances the cursor. -/
def Obligations.MiddleChunkAdvances : Prop :=
  ∀ (s : State) (p : Nat) (rx : List Byte) (more : List XferAnswer), s.nextMove = .run p →
    p < s.producers.length → (s.producer p).phase = .xfer → s.session.lockOwner = some p →
    (s.producer p).dir = .send → 0 < s.cfg.maxChunk →
    (s.producer p).cursor + s.cfg.maxChunk < (s.producer p).total →
    s.env.channel = .ok rx :: more → rx.length = s.cfg.maxChunk →
    let P := s.producer p
    let k := s.cfg.maxChunk
    let tx := match P.src with
      | .hdr => (P.hdr.drop P.cursor).take k
      | .pay => (List.range k).map fun j => P.pay.read (P.cursor + j)
      | .pat => (P.pat.drop P.cursor).take k
    let event := if 0 < s.session.rxCap then Event.xfer p .txrx (some tx) (some rx) .ok
      else Event.xfer p .tx (some tx) none .ok
    step s = .next { (s.scheduled p) with
      trace := s.trace ++ [event]
      env := { s.env with
        agenda := s.env.agenda.tail, channel := more, draws := s.env.draws + 2 }
      producers := s.producers.modify p fun Q => { Q with
        cursor := Q.cursor + k
        win := if 0 < s.session.rxCap then lastN (Q.win ++ rx) s.session.rxCap else Q.win } }

/-- R129: the last chunk of a `send` without a payload to follow and without a capture buffer releases
the lock and answers `Ok`. -/
def Obligations.LastChunkReleasesLock : Prop :=
  ∀ (s : State) (p : Nat) (rx : List Byte) (more : List XferAnswer), s.nextMove = .run p →
    p < s.producers.length → (s.producer p).phase = .xfer → s.session.lockOwner = some p →
    (s.producer p).dir = .send → (s.producer p).payPending = false → s.session.rxCap = 0 →
    (s.producer p).cursor < (s.producer p).total →
    (s.producer p).total ≤ (s.producer p).cursor + s.cfg.maxChunk →
    s.env.channel = .ok rx :: more →
    let P := s.producer p
    let k := P.total - P.cursor
    let tx := match P.src with
      | .hdr => (P.hdr.drop P.cursor).take k
      | .pay => (List.range k).map fun j => P.pay.read (P.cursor + j)
      | .pat => (P.pat.drop P.cursor).take k
    ∃ t : State, step s = .next t ∧
      t.trace = s.trace ++ [.xfer p .tx (some tx) none .ok] ∧
      t.session = { s.session with lockOwner := none } ∧
      t.producers = s.producers.modify p (fun Q => { Q with
        cursor := Q.total, phase := .idle, result := .ok, value := .nothing })

/-- R129, R164 (d), R227 (schedule and answer as State lists them, log 3, log 4): the last chunk of a draw's
header frame records its transfer, releases the lock and starts the payload frame, which waits for the
lock anew; with no payload source the draw ends with `InvalidArgument`, the header already on the wire.
With a capture buffer the header's window is committed first: `RXB` holds it from index 0. That the
committed window is then empty is DEDUCED (log 11). -/
def Obligations.PayloadFrameFollowsHeader : Prop :=
  ∀ (s : State) (p : Nat) (rx : List Byte) (more : List XferAnswer), s.nextMove = .run p →
    p < s.producers.length → (s.producer p).phase = .xfer → s.session.lockOwner = some p →
    (s.producer p).dir = .send → (s.producer p).payPending = true → 0 < (s.producer p).payTotal →
    s.session.initialized = true → (s.producer p).cursor < (s.producer p).total →
    (s.producer p).total ≤ (s.producer p).cursor + s.cfg.maxChunk → s.env.channel = .ok rx :: more →
    let capturing := 0 < s.session.rxCap
    (capturing → s.session.rxBuf.length = s.session.rxCap ∧
      rx.length = (s.producer p).total - (s.producer p).cursor) →
    let window := lastN ((s.producer p).win ++ rx) s.session.rxCap
    let tx := (s.producer p).chunkData ((s.producer p).total - (s.producer p).cursor)
    ∃ t : State, step s = .next t ∧
      t.trace = s.trace ++ [if capturing then .xfer p .txrx (some tx) (some rx) .ok
        else .xfer p .tx (some tx) none .ok] ∧
      (¬ capturing → t.session = { s.session with lockOwner := none }) ∧
      (capturing → t.session = { s.session with
          lockOwner := none, rxBuf := t.session.rxBuf, rxLen := window.length, rxStale := false } ∧
        t.session.rxBuf.length = s.session.rxCap ∧ t.session.rxBuf.take window.length = window) ∧
      ((s.producer p).payValid = true → t.producers = s.producers.modify p (fun Q => { Q with
        payPending := false, dir := .send, src := .pay, total := Q.payTotal, cursor := 0, win := []
        phase := .acq })) ∧
      ((s.producer p).payValid = false → t.producers = s.producers.modify p (fun Q => { Q with
        payPending := false, cursor := Q.total, win := if capturing then [] else Q.win
        phase := .idle, result := .invalidArgument, value := .nothing }))

/-- R128, R130, R226 (schedule and answer as State lists them, log 3, log 4): a failed transfer is recorded
with its kind and the bytes handed to the channel, releases the lock, drops a pending payload and ends
the operation with the channel's code; with a capture buffer configured the buffer is stale, its length
unchanged, and the next `lastReceived` shows unspecified bytes (log 5). That the frame's window is
dropped too is DEDUCED (log 11); that the event shows no received bytes is log 14. -/
def Obligations.FailedChunkEndsOperation : Prop :=
  ∀ (s : State) (p : Nat) (code : Nat) (more : List XferAnswer), s.nextMove = .run p →
    p < s.producers.length → (s.producer p).phase = .xfer → s.session.lockOwner = some p →
    (s.producer p).cursor < (s.producer p).total → 0 < s.cfg.maxChunk →
    s.env.channel = .fail code :: more →
    let P := s.producer p
    let k := min (P.total - P.cursor) s.cfg.maxChunk
    let kind := match P.dir with
      | .send => if 0 < s.session.rxCap then XferKind.txrx else .tx
      | .recv => .rx
    let tx := match P.dir with
      | .send => some (P.chunkData k)
      | .recv => none
    ∃ t : State, step s = .next t ∧
      t.producers = s.producers.modify p (fun Q => { Q with
        payPending := false, win := [], phase := .idle
        result := .transferFailed (code % 2 ^ s.cfg.errBits), value := .nothing }) ∧
      t.session.lockOwner = none ∧ t.session.initialized = s.session.initialized ∧
      t.session.rxCap = s.session.rxCap ∧ t.session.rxLen = s.session.rxLen ∧
      t.session.rxStale = (s.session.rxStale || decide (0 < s.session.rxCap)) ∧
      t.trace = s.trace ++ [.xfer p kind tx none (.fail (code % 2 ^ s.cfg.errBits))] ∧
      (0 < s.session.rxCap →
        t.receivedBytes = (List.range s.session.rxCap).map (Config.freeByte t.env.draws))

/-- R61, R66 (a), R129, R138 (a) (schedule and answers as State lists them, log 3, log 4): from every good
state in which producer `p` is sending a frame, scheduled alone on a channel that answers `OK`, the rest
of the frame goes out in exactly `ceil_div(total - cursor, MAX_CHUNK)` transfers, all by `p`, all but the
last of `MAX_CHUNK` bytes, none empty or larger; their bytes in order are the frame's; then the lock is
free and the result `Ok`. -/
def Obligations.FrameMovesWhole : Prop :=
  ∀ (s : State) (p n : Nat) (oks : List (List Byte)) (more : List Move) (others : List XferAnswer),
    s.Inv → p < s.producers.length → (s.producer p).phase = .xfer → (s.producer p).dir = .send →
    (s.producer p).payPending = false →
    n = ceilDiv ((s.producer p).total - (s.producer p).cursor) s.cfg.maxChunk →
    s.env.agenda = List.replicate n (.run p) ++ more →
    s.env.channel = oks.map .ok ++ others → oks.length = n →
    ∃ (t : State) (events : List Event), Host.Core.run Sys2Proof.core n s = .next t ∧
      t.trace = s.trace ++ events ∧ events.length = n ∧
      (∀ e ∈ events, e.transferOf = some p ∧ 0 < e.sent.length ∧ e.sent.length ≤ s.cfg.maxChunk) ∧
      (∀ e ∈ events.dropLast, e.sent.length = s.cfg.maxChunk) ∧
      wireBytes events = (s.producer p).remaining ∧
      t.session.lockOwner = none ∧ (t.producer p).phase = .idle ∧ (t.producer p).result = .ok

/-- R128, R129, R26 (log 3, log 4): under the same conditions, from the start of the frame and with a
capture buffer configured, `RXB[0 .. n)` then holds the last `n = min(total, capacity)` bytes the channel
returned during the whole frame, oldest first; the length is `n` and the buffer is not stale. -/
def Obligations.CaptureHoldsLastReturnedBytes : Prop :=
  ∀ (s : State) (p n : Nat) (oks : List (List Byte)) (more : List Move) (others : List XferAnswer),
    s.Inv → p < s.producers.length → (s.producer p).phase = .xfer → (s.producer p).dir = .send →
    (s.producer p).payPending = false → (s.producer p).cursor = 0 → (s.producer p).win = [] →
    0 < s.session.rxCap → n = ceilDiv (s.producer p).total s.cfg.maxChunk →
    s.env.agenda = List.replicate n (.run p) ++ more →
    s.env.channel = oks.map .ok ++ others → oks.length = n →
    ∃ (t : State) (events : List Event), Host.Core.run Sys2Proof.core n s = .next t ∧
      t.trace = s.trace ++ events ∧
      t.session.rxLen = min (s.producer p).total s.session.rxCap ∧ t.session.rxStale = false ∧
      t.session.rxBuf.length = s.session.rxCap ∧
      t.session.rxBuf.take t.session.rxLen = lastN (events.map Event.returned).flatten t.session.rxLen

/-- R128, R129, R134 (schedule and answers as State lists them, log 3, log 4): from every good state in which
producer `p` is receiving a frame, scheduled alone on a channel that answers `OK`, the rest of the frame
comes in exactly `ceil_div(total - cursor, MAX_CHUNK)` receive-only transfers, none empty or larger than
`MAX_CHUNK`. `RXB[0 .. total)` then holds what stood below the cursor and, after it, the bytes the channel
returned in order of arrival; the length recorded is `total`, the lock is free and the result `Ok`. -/
def Obligations.ReceiveCommitsLength : Prop :=
  ∀ (s : State) (p n : Nat) (oks : List (List Byte)) (more : List Move) (others : List XferAnswer),
    s.Inv → p < s.producers.length → (s.producer p).phase = .xfer → (s.producer p).dir = .recv →
    n = ceilDiv ((s.producer p).total - (s.producer p).cursor) s.cfg.maxChunk →
    s.env.agenda = List.replicate n (.run p) ++ more →
    s.env.channel = oks.map .ok ++ others → oks.length = n →
    ∃ (t : State) (events : List Event), Host.Core.run Sys2Proof.core n s = .next t ∧
      t.trace = s.trace ++ events ∧ events.length = n ∧
      (∀ e ∈ events, ∃ rx, e = .xfer p .rx none (some rx) .ok ∧ 0 < rx.length ∧ rx.length ≤ s.cfg.maxChunk) ∧
      t.session.rxBuf.take (s.producer p).total =
        s.session.rxBuf.take (s.producer p).cursor ++ (events.map Event.returned).flatten ∧
      t.session.rxBuf.length = s.session.rxCap ∧ t.session.rxLen = (s.producer p).total ∧
      t.session.rxStale = false ∧ t.session.lockOwner = none ∧
      t.producers = s.producers.modify p (fun Q => { Q with
        cursor := Q.total, phase := .idle, result := .ok, value := .nothing })

/-- R150, R161 and the source's example (schedule and answer as State lists them, log 3, log 4): with the
lock free and no capture buffer, a header-only command that passes its checks goes from its port to the
wire in three steps (issue, acquire, one chunk): the trace gains exactly one transfer, its header frame,
and the result is `Ok`. -/
def Obligations.HeaderOnlyCommandReachesWire : Prop :=
  ∀ (s : State) (p : Nat) (req : Request) (requests : List Request) (i : Instr) (more : List Move)
    (rx : List Byte) (others : List XferAnswer),
    s.Inv → p < s.producers.length → (s.producer p).phase = .idle → s.session.initialized = true →
    s.session.lockOwner = none → s.session.rxCap = 0 → 16 ≤ s.cfg.maxChunk →
    (s.producer p).port = req :: requests → decodePort s.cfg.hasCapture req.words = .ok i →
    (i = .displayDeinit ∨ i = .miscHwinfo ∨ i = .miscStat ∨
      (∃ p0 p1 p2 p3 width height, i = .displayInit p0 p1 p2 p3 width height) ∨
      (∃ fb : Byte, i = .displayFlip fb ∧ fb.toNat < s.cfg.fbCount) ∨
      (∃ (fb : Byte) (color : Color), i = .framebufferClear fb color ∧ fb.toNat < s.cfg.fbCount) ∨
      (∃ (srcFb dstFb : Byte) (srcX srcY dstX dstY w h : U16),
        i = .framebufferBlit srcFb dstFb srcX srcY dstX dstY w h ∧ srcFb.toNat < s.cfg.fbCount ∧
          dstFb.toNat < s.cfg.fbCount)) →
    s.env.agenda = .run p :: .run p :: .run p :: more → s.env.channel = .ok rx :: others →
    ∃ t : State, Host.Core.run Sys2Proof.core 3 s = .next t ∧
      t.trace = s.trace ++ [.xfer p .tx (some (headerFrame s.cfg.codes i)) none .ok] ∧
      t.session = s.session ∧ (t.producer p).phase = .idle ∧ (t.producer p).result = .ok ∧
      (∀ q, q ≠ p → t.producer q = s.producer q)

/-! ## The whole machine -/

/-- R38: every step keeps the invariant, from every state that has it. (R38 (f) rests on the window being
emptied when its frame ends, log 11.) -/
def Obligations.StepKeepsInvariant : Prop :=
  ∀ s t : State, s.Inv → step s = .next t → t.Inv

/-- R40: the reset state has the invariant. -/
def Obligations.ResetHasInvariant : Prop := State.reset.Inv

/-- R213: the block has no stuck state of its own: no step from a state with the invariant ends in a
fault. -/
def Obligations.NoStepFaults : Prop :=
  ∀ (s : State) (f : Fault), s.Inv → step s ≠ .fault f

/-- R40, R210: what reset leaves, as far as the spec gives values: no session, no lock, no capture
buffer, every producer idle with an empty window, an empty trace, and R7's three constants. -/
def Obligations.ResetLeavesNoSession : Prop :=
  let s := State.reset
  s.session.busValid = false ∧ s.session.devValid = false ∧ s.session.lockValid = false ∧
    s.session.lockOwner = none ∧ s.session.rxCap = 0 ∧ s.session.rxLen = 0 ∧ s.session.rxBuf = [] ∧
    s.session.rxStale = false ∧ (∀ P ∈ s.producers, P.phase = .idle ∧ P.win = []) ∧ s.trace = [] ∧
    s.cfg.fbCount = 4 ∧ s.cfg.maxChunk = 4096 ∧ s.cfg.lockTimeoutSeconds = 1

/-- R210, R211: the reset input, at any time, puts the session and every producer context to its reset
value and empties the trace; the configuration and the requests not yet accepted stay. For the producer
fields that R40 leaves unspecified the value is the model's choice (log 8); that reset is a move of the
world is the model's choice too (log 15). -/
def Obligations.ResetInputAbandonsOperations : Prop :=
  ∀ s : State, s.nextMove = .reset →
    ∃ t : State, step s = .next t ∧ t.session = State.reset.session ∧ t.trace = [] ∧ t.cfg = s.cfg ∧
      t.producers.length = s.producers.length ∧
      ∀ p, p < s.producers.length →
        t.producer p = { Producer.reset with port := (s.producer p).port }

/-- R131: a step that is not a reset changes no other producer's context, and moves the phase of its
producer only along the transitions of R131. -/
def Obligations.PhasesMoveAsTabled : Prop :=
  ∀ (s t : State) (p : Nat), s.Inv → s.nextMove = .run p → step s = .next t →
    (∀ q, q ≠ p → t.producer q = s.producer q) ∧
      (match (s.producer p).phase, (t.producer p).phase with
        | .idle, .xfer => False
        | .acq, .acq => False
        | .acq, .xfer => 0 < (s.producer p).total ∧ s.session.lockOwner = none
        | .xfer, .acq => (s.producer p).payPending = true
        | _, _ => True)

/-- R137, R61, R57: a step that is not a reset only appends to the trace; each physical transfer it
appends is by the producer that holds the lock, and shows 1 to `MAX_CHUNK` bytes: those sent, or for a
receive those received. (A receive that failed shows none: R58 leaves its bytes unspecified, log 14.) -/
def Obligations.OnlyLockOwnerTransfers : Prop :=
  ∀ (s t : State) (p : Nat), s.Inv → s.nextMove = .run p → step s = .next t →
    ∃ events : List Event, t.trace = s.trace ++ events ∧
      ∀ e ∈ events, ∀ q, e.transferOf = some q →
        q = p ∧ s.session.lockOwner = some q ∧ (s.producer q).phase = .xfer ∧ e.size ≤ s.cfg.maxChunk ∧
          ((s.producer q).dir = .send → 0 < e.sent.length ∧ e.sent.length ≤ s.cfg.maxChunk) ∧
          ((s.producer q).dir = .recv →
            (∃ rx, e = .xfer q .rx none (some rx) .ok ∧ 0 < rx.length ∧ rx.length ≤ s.cfg.maxChunk) ∨
              ∃ code, e = .xfer q .rx none none (.fail code))

/-- R196: an operation that has ended does not hold the lock. -/
def Obligations.EndedOperationHoldsNoLock : Prop :=
  ∀ (s t : State) (p : Nat), s.Inv → step s = .next t → p < s.producers.length →
    (t.producer p).phase = .idle → t.session.lockOwner ≠ some p

/-- R27, R206: no step changes the configuration registers. -/
def Obligations.ConfigurationNeverChanges : Prop :=
  ∀ s t : State, step s = .next t → t.cfg = s.cfg

/-- R25, R52, R221: while a producer is in `ACQ` or `XFER`, its step writes neither its payload memory
nor its staged header bytes nor its pattern, and does not resize the capture buffer. -/
def Obligations.TransferStepsKeepSources : Prop :=
  ∀ (s t : State) (p : Nat), s.nextMove = .run p → (s.producer p).phase ≠ .idle → step s = .next t →
    (t.producer p).pay = (s.producer p).pay ∧ (t.producer p).hdr = (s.producer p).hdr ∧
      (t.producer p).hdrLen = (s.producer p).hdrLen ∧ (t.producer p).pat = (s.producer p).pat ∧
      (t.producer p).op = (s.producer p).op ∧ t.session.rxCap = s.session.rxCap ∧
      t.session.initialized = s.session.initialized

/-- R127: with one producer no step answers `Timeout`. -/
def Obligations.LoneProducerNeverTimesOut : Prop :=
  ∀ s t : State, s.Inv → s.cfg.nProd = 1 → (s.producer 0).result ≠ .timeout → step s = .next t →
    (t.producer 0).result ≠ .timeout

/-- R181, R33: the nine result codes are 0 to 8, each kind its own, and a device code is carried by
`TransferFailed` alone. -/
def Obligations.ResultCodesAsTabled : Prop :=
  [Result.ok, .notInitialized, .invalidArgument, .invalidState, .timeout, .transferFailed 0, .outOfMemory,
      .indexOutOfRange, .sizeOverflow].map resultCode = [0, 1, 2, 3, 4, 5, 6, 7, 8] ∧
    ∀ r : Result, (resultCode r).toNat ≤ 8 ∧ ((devCode r).isSome ↔ resultCode r = 5)

/-! ## Added after the review -/

/-- R128, R139 (d), R67 (schedule and answer as State lists them, log 3, log 4): a successful chunk of a
receive that is not the frame's last stores its bytes in `RXB` at the cursor and advances the cursor;
the recorded length, the stale bit and the lock stay, and no other byte of `RXB` changes. -/
def Obligations.MiddleReceiveChunkStores : Prop :=
  ∀ (s : State) (p : Nat) (rx : List Byte) (more : List XferAnswer), s.nextMove = .run p →
    p < s.producers.length → (s.producer p).phase = .xfer → s.session.lockOwner = some p →
    (s.producer p).dir = .recv → 0 < s.cfg.maxChunk →
    (s.producer p).cursor + s.cfg.maxChunk < (s.producer p).total →
    s.env.channel = .ok rx :: more → rx.length = s.cfg.maxChunk →
    let start := (s.producer p).cursor
    let buf := s.session.rxBuf
    step s = .next { (s.scheduled p) with
      session := { s.session with rxBuf := buf.take start ++ rx ++ buf.drop (start + s.cfg.maxChunk) }
      trace := s.trace ++ [.xfer p .rx none (some rx) .ok]
      env := { s.env with
        agenda := s.env.agenda.tail, channel := more, draws := s.env.draws + 2 }
      producers := s.producers.modify p fun Q => { Q with cursor := Q.cursor + s.cfg.maxChunk } }

/-- R134 (c), R126, R129 (schedule: log 4): a `readInto` of length 0 takes and releases the lock in one
step, makes no transfer, records the length 0 and answers `Ok`; the buffer keeps its size, its bytes
being unspecified from index 0 on (R26, log 5). -/
def Obligations.ZeroLengthReadRecordsNothing : Prop :=
  ∀ (s : State) (p : Nat), s.nextMove = .run p → p < s.producers.length →
    (s.producer p).phase = .acq → s.session.lockOwner = none → (s.producer p).dir = .recv →
    (s.producer p).total = 0 →
    ∃ t : State, step s = .next t ∧ t.trace = s.trace ∧
      t.session = { s.session with rxBuf := t.session.rxBuf, rxLen := 0, rxStale := false } ∧
      t.session.rxBuf.length = s.session.rxBuf.length ∧ t.cfg = s.cfg ∧ t.env.channel = s.env.channel ∧
      t.producers = s.producers.modify p (fun P =>
        { P with phase := .idle, result := .ok, value := .nothing })

/-- R100, R83, R92: a decoder of the wire reads back any sequence of commands, whatever the (distinct)
category and opcode bytes are. From the joined bytes alone: the first two bytes of a header frame give
its length, and the `w` and `h` of a draw the length `3 * w * h` of its payload. And from the list of
frames: a draw with pixels is followed by one separate frame of exactly that length. -/
def Obligations.WireStreamReadsBack : Prop :=
  ∀ (c : WireCodes) (messages : List WireMessage), c.distinct = true →
    (∀ m ∈ messages, isWireCommand m.command = true ∧ m.payload.length = payloadBytes m.command) →
    let frames := (messages.map (messageFrames c)).flatten
    let read := messages.map fun m => { m with command := onWire m.command }
    readStream c frames.flatten = .ok read ∧ readFrames c frames = .ok read
end

