-- ==== Sys2Proof/Laws/Memory.lean ====
section
/-! SUPPORT. The byte spaces: every memory operation keeps the canonical form, and a read after a write. -/

namespace Sys2Proof.Machine

theorem Memory.wf_nil : Memory.wf [] = true := rfl

theorem Memory.wf_cons {a : Nat} {b : Byte} {m : Memory} :
    Memory.wf ((a, b) :: m) = true ↔ b ≠ payDefault ∧ (∀ c ∈ m, a < c.1) ∧ m.wf = true := by
  simp [Memory.wf, and_assoc]

/-- Writing at `x` lists no address that was not listed, but `x`. -/
theorem Memory.mem_write {m : Memory} {x : Nat} {v : Byte} {c : Host.Cell} (h : c ∈ m.write x v) :
    c ∈ m ∨ c.1 = x := by
  induction m with
  | nil =>
    simp only [Memory.write] at h
    split at h <;> simp_all
  | cons d m ih =>
    obtain ⟨a, b⟩ := d
    simp only [Memory.write] at h
    split at h
    · split at h
      · exact .inl h
      · rcases List.mem_cons.mp h with rfl | h
        · exact .inr rfl
        · exact .inl h
    · split at h
      · split at h
        · exact .inl (List.mem_cons_of_mem _ h)
        · rcases List.mem_cons.mp h with rfl | h
          · exact .inr rfl
          · exact .inl (List.mem_cons_of_mem _ h)
      · rcases List.mem_cons.mp h with h | h
        · simp [h]
        · rcases ih h with h | h <;> simp [h]

/-- A write keeps the canonical form. -/
theorem Memory.wf_write {m : Memory} (x : Nat) (v : Byte) (h : m.wf = true) : (m.write x v).wf = true := by
  induction m with
  | nil =>
    simp only [Memory.write]
    split
    · rfl
    · simp_all [Memory.wf]
  | cons d m ih =>
    obtain ⟨a, b⟩ := d
    obtain ⟨hb, ha, hm⟩ := Memory.wf_cons.mp h
    simp only [Memory.write]
    split
    · rename_i hx
      split
      · exact h
      · rename_i hv
        refine Memory.wf_cons.mpr ⟨hv, ?_, h⟩
        intro c hc
        rcases List.mem_cons.mp hc with rfl | hc
        · exact hx
        · exact Nat.lt_trans hx (ha c hc)
    · split
      · rename_i hx
        subst hx
        split
        · exact hm
        · rename_i hv
          exact Memory.wf_cons.mpr ⟨hv, ha, hm⟩
      · rename_i hlt hne
        refine Memory.wf_cons.mpr ⟨hb, ?_, ih hm⟩
        intro c hc
        rcases Memory.mem_write hc with hc | hc
        · exact ha c hc
        · omega

/-- Consecutive writes keep the canonical form. -/
theorem Memory.wf_writeBytes {m : Memory} (a : Nat) (bs : List Byte) (h : m.wf = true) :
    (m.writeBytes a bs).wf = true := by
  induction bs generalizing m a with
  | nil => exact h
  | cons b bs ih => exact ih (a + 1) (Memory.wf_write a b h)

/-- An address below every listed one is unlisted. -/
theorem Memory.read_of_lt {m : Memory} {x : Nat} (h : ∀ c ∈ m, x < c.1) : m.read x = payDefault := by
  induction m with
  | nil => rfl
  | cons d m ih =>
    obtain ⟨a, b⟩ := d
    have hx : x < a := h (a, b) (by simp)
    simp only [Memory.read]
    rw [if_neg (by omega)]
    exact ih fun c hc => h c (by simp [hc])

/-- A read after a write to the same address gives the value written. -/
theorem Memory.read_write_same {m : Memory} (x : Nat) (v : Byte) (h : m.wf = true) :
    (m.write x v).read x = v := by
  induction m with
  | nil =>
    simp only [Memory.write]
    split
    · simp_all [Memory.read]
    · simp [Memory.read]
  | cons d m ih =>
    obtain ⟨a, b⟩ := d
    obtain ⟨_, ha, hm⟩ := Memory.wf_cons.mp h
    simp only [Memory.write]
    split
    · rename_i hx
      split
      · rename_i hv
        rw [hv]
        refine Memory.read_of_lt fun c hc => ?_
        rcases List.mem_cons.mp hc with rfl | hc
        · exact hx
        · exact Nat.lt_trans hx (ha c hc)
      · simp [Memory.read]
    · split
      · rename_i hx
        subst hx
        split
        · rename_i hv
          rw [hv]
          exact Memory.read_of_lt ha
        · simp [Memory.read]
      · rename_i hlt hne
        simp only [Memory.read]
        rw [if_neg (by omega)]
        exact ih hm

/-- A write leaves every other address alone. -/
theorem Memory.read_write_other {m : Memory} {x y : Nat} (v : Byte) (h : m.wf = true) (hy : y ≠ x) :
    (m.write x v).read y = m.read y := by
  induction m with
  | nil =>
    simp only [Memory.write]
    split
    · rfl
    · simp [Memory.read, Ne.symm hy]
  | cons d m ih =>
    obtain ⟨a, b⟩ := d
    obtain ⟨_, ha, hm⟩ := Memory.wf_cons.mp h
    simp only [Memory.write]
    split
    · split
      · rfl
      · simp [Memory.read, Ne.symm hy]
    · split
      · rename_i hx
        subst hx
        split <;> simp [Memory.read, Ne.symm hy]
      · simp only [Memory.read]
        split
        · rfl
        · exact ih hm

/-- `MemRead(PAY, a, n)` gives `n` bytes. -/
@[simp] theorem Memory.length_readBytes (m : Memory) (a n : Nat) : (m.readBytes a n).length = n := by
  simp [Memory.readBytes]

/-! ## Dense spaces -/

theorem length_memRead (buf : List Byte) (a n : Nat) (h : a + n ≤ buf.length) : (memRead buf a n).length = n := by
  simp [memRead]
  omega

theorem length_memWrite (buf : List Byte) (a : Nat) (v : List Byte) (h : a + v.length ≤ buf.length) :
    (memWrite buf a v).length = buf.length := by
  simp [memWrite]
  omega

@[simp] theorem length_unspecifiedFrom (buf : List Byte) (n d : Nat) :
    (unspecifiedFrom buf n d).length = buf.length := by
  simp [unspecifiedFrom]
  omega

@[simp] theorem length_unspecifiedBytes (d n : Nat) : (unspecifiedBytes d n).length = n := by
  simp [unspecifiedBytes]

theorem length_lastN (s : List Byte) (n : Nat) : (lastN s n).length = min s.length n := by
  simp [lastN]
  omega

/-- What is below the bound keeps its value when the rest becomes unspecified. -/
theorem take_unspecifiedFrom (buf : List Byte) (n d : Nat) (h : n ≤ buf.length) :
    (unspecifiedFrom buf n d).take n = buf.take n := by
  simp [unspecifiedFrom, h]

/-- A write at the start of a space. -/
theorem memWrite_zero (buf v : List Byte) : memWrite buf 0 v = v ++ buf.drop v.length := by
  simp [memWrite]

/-- The last `n` of a growing sequence are the last `n` of the last `n` and what is added. -/
theorem lastN_append_lastN (a b : List Byte) (n : Nat) : lastN (lastN a n ++ b) n = lastN (a ++ b) n := by
  simp only [lastN, List.length_append, List.length_drop]
  rw [List.drop_append, List.drop_append, List.drop_drop]
  congr 1
  · congr 1
    omega
  · congr 1
    simp
    omega

end Sys2Proof.Machine
end

