-- ==== Sys2Proof/Laws/PerInstr.lean ====
section
/-! SUPPORT. Facts about every operation as syntax, one lemma per constructor. -/

namespace Sys2Proof.Laws.HostEncoding

/-- R96, R99: a request opens with the operation's selector, which is below 18; and R80, R83: the header
frame is empty exactly for the operations that are no wire command, and fits the staging buffer. -/
def Statement (i : Instr) : Prop :=
  (encode i).head? = some (BitVec.ofNat 8 (opsel i)) ∧ opsel i < 18 ∧
    ∀ c : WireCodes, (headerFrame c i).length ≤ 16 ∧ (isWireCommand i = true ↔ headerFrame c i ≠ [])

/-- The empty header frame of an operation that is no wire command. -/
theorem of_no_frame {i : Instr} (h : opsel i < 18) (hw : isWireCommand i = false)
    (hf : ∀ c, headerFrame c i = []) : Statement i :=
  ⟨rfl, h, fun c => by simp [hf c, hw]⟩

/-- The header frame of a wire command. -/
theorem of_frame {i : Instr} (h : opsel i < 18) (hw : isWireCommand i = true)
    (hl : ∀ c, (headerFrame c i).length ≤ 16 ∧ 0 < (headerFrame c i).length) : Statement i :=
  ⟨rfl, h, fun c => ⟨(hl c).1, by simp only [hw, true_iff]; exact List.ne_nil_of_length_pos (hl c).2⟩⟩

theorem fromRGB (r g b : Byte) : Statement (.fromRGB r g b) :=
  of_no_frame (by simp [opsel]) rfl fun _ => rfl

theorem fromRGBA (r g b : Byte) (alpha : Alpha) : Statement (.fromRGBA r g b alpha) :=
  of_no_frame (by simp [opsel]) rfl fun _ => rfl

theorem fromHSV (hue sat val : Byte) : Statement (.fromHSV hue sat val) :=
  of_no_frame (by simp [opsel]) rfl fun _ => rfl

theorem initializeSession : Statement .initializeSession :=
  of_no_frame (by simp [opsel]) rfl fun _ => rfl

theorem send (payValid : Bool) (length : Nat) : Statement (.send payValid length) :=
  of_no_frame (by simp [opsel]) rfl fun _ => rfl

theorem setReceiveCapacity (n : Nat) : Statement (.setReceiveCapacity n) :=
  of_no_frame (by simp [opsel]) rfl fun _ => rfl

theorem readInto (n : Nat) : Statement (.readInto n) :=
  of_no_frame (by simp [opsel]) rfl fun _ => rfl

theorem lastReceived : Statement .lastReceived :=
  of_no_frame (by simp [opsel]) rfl fun _ => rfl

theorem deinitializeSession : Statement .deinitializeSession :=
  of_no_frame (by simp [opsel]) rfl fun _ => rfl

theorem displayInit (pin0 pin1 pin2 pin3 : Byte) (width height : U16) : Statement (.displayInit pin0 pin1 pin2 pin3 width height) :=
  of_frame (by simp [opsel]) rfl fun _ => ⟨by simp [headerFrame, frameDisplayInit, le16], by simp [headerFrame, frameDisplayInit, le16]⟩

theorem displayDeinit : Statement .displayDeinit :=
  of_frame (by simp [opsel]) rfl fun _ => ⟨by simp [headerFrame, frameDisplayDeinit], by simp [headerFrame, frameDisplayDeinit]⟩

theorem displayFlip (fb : Byte) : Statement (.displayFlip fb) :=
  of_frame (by simp [opsel]) rfl fun _ => ⟨by simp [headerFrame, frameDisplayFlip], by simp [headerFrame, frameDisplayFlip]⟩

theorem framebufferClear (fb : Byte) (color : Color) : Statement (.framebufferClear fb color) :=
  of_frame (by simp [opsel]) rfl fun _ => ⟨by simp [headerFrame, frameClear], by simp [headerFrame, frameClear]⟩

theorem framebufferBlit (srcFb dstFb : Byte) (srcX srcY dstX dstY w h : U16) : Statement (.framebufferBlit srcFb dstFb srcX srcY dstX dstY w h) :=
  of_frame (by simp [opsel]) rfl fun _ => ⟨by simp [headerFrame, frameBlit, le16], by simp [headerFrame, frameBlit, le16]⟩

theorem framebufferDraw (fb : Byte) (x y w h : U16) (payValid : Bool) : Statement (.framebufferDraw fb x y w h payValid) :=
  of_frame (by simp [opsel]) rfl fun _ => ⟨by simp [headerFrame, frameDraw, le16], by simp [headerFrame, frameDraw, le16]⟩

theorem miscHwinfo : Statement .miscHwinfo :=
  of_frame (by simp [opsel]) rfl fun _ => ⟨by simp [headerFrame, frameHwinfo], by simp [headerFrame, frameHwinfo]⟩

theorem miscStat : Statement .miscStat :=
  of_frame (by simp [opsel]) rfl fun _ => ⟨by simp [headerFrame, frameStat], by simp [headerFrame, frameStat]⟩

theorem selfTest (marker : Byte) : Statement (.selfTest marker) :=
  of_no_frame (by simp [opsel]) rfl fun _ => rfl

end Sys2Proof.Laws.HostEncoding
end

