-- ==== Sys2Proof/Laws/State.lean ====
section
/-! SUPPORT. One lemma per field per update of the state, all true by rfl, and the lemmas that read one
producer after an update of one. -/

namespace Sys2Proof.Machine

variable (s : State)

@[simp] theorem setProducer_cfg (p : Nat) (f : Producer → Producer) : (s.setProducer p f).cfg = s.cfg := rfl
@[simp] theorem setProducer_session (p : Nat) (f : Producer → Producer) :
    (s.setProducer p f).session =
      s.session := rfl
@[simp] theorem setProducer_producers (p : Nat) (f : Producer → Producer) :
    (s.setProducer p f).producers =
      s.producers.modify p f := rfl
@[simp] theorem setProducer_cur (p : Nat) (f : Producer → Producer) : (s.setProducer p f).cur = s.cur := rfl
@[simp] theorem setProducer_trace (p : Nat) (f : Producer → Producer) :
    (s.setProducer p f).trace =
      s.trace := rfl
@[simp] theorem setProducer_env (p : Nat) (f : Producer → Producer) : (s.setProducer p f).env = s.env := rfl

@[simp] theorem setSession_cfg (f : Session → Session) : (s.setSession f).cfg = s.cfg := rfl
@[simp] theorem setSession_session (f : Session → Session) : (s.setSession f).session = f s.session := rfl
@[simp] theorem setSession_producers (f : Session → Session) : (s.setSession f).producers = s.producers := rfl
@[simp] theorem setSession_cur (f : Session → Session) : (s.setSession f).cur = s.cur := rfl
@[simp] theorem setSession_trace (f : Session → Session) : (s.setSession f).trace = s.trace := rfl
@[simp] theorem setSession_env (f : Session → Session) : (s.setSession f).env = s.env := rfl

@[simp] theorem emit_cfg (e : Event) : (s.emit e).cfg = s.cfg := rfl
@[simp] theorem emit_session (e : Event) : (s.emit e).session = s.session := rfl
@[simp] theorem emit_producers (e : Event) : (s.emit e).producers = s.producers := rfl
@[simp] theorem emit_cur (e : Event) : (s.emit e).cur = s.cur := rfl
@[simp] theorem emit_trace (e : Event) : (s.emit e).trace = s.trace ++ [e] := rfl
@[simp] theorem emit_env (e : Event) : (s.emit e).env = s.env := rfl

@[simp] theorem releaseLock_cfg : (s.releaseLock).cfg = s.cfg := rfl
@[simp] theorem releaseLock_session : (s.releaseLock).session = { s.session with lockOwner := none } := rfl
@[simp] theorem releaseLock_producers : (s.releaseLock).producers = s.producers := rfl
@[simp] theorem releaseLock_cur : (s.releaseLock).cur = s.cur := rfl
@[simp] theorem releaseLock_trace : (s.releaseLock).trace = s.trace := rfl
@[simp] theorem releaseLock_env : (s.releaseLock).env = s.env := rfl

@[simp] theorem unspecifyRxFrom_cfg (n : Nat) : (s.unspecifyRxFrom n).cfg = s.cfg := rfl
@[simp] theorem unspecifyRxFrom_session (n : Nat) :
    (s.unspecifyRxFrom n).session =
      { s.session with rxBuf := unspecifiedFrom s.session.rxBuf n s.env.draws } := rfl
@[simp] theorem unspecifyRxFrom_producers (n : Nat) : (s.unspecifyRxFrom n).producers = s.producers := rfl
@[simp] theorem unspecifyRxFrom_cur (n : Nat) : (s.unspecifyRxFrom n).cur = s.cur := rfl
@[simp] theorem unspecifyRxFrom_trace (n : Nat) : (s.unspecifyRxFrom n).trace = s.trace := rfl
@[simp] theorem unspecifyRxFrom_env (n : Nat) :
    (s.unspecifyRxFrom n).env =
      { s.env with draws := s.env.draws + 1 } := rfl

@[simp] theorem finish_cfg (p : Nat) (r : Result) (v : Value) : (s.finish p r v).cfg = s.cfg := rfl
@[simp] theorem finish_session (p : Nat) (r : Result) (v : Value) :
    (s.finish p r v).session =
      s.session := rfl
@[simp] theorem finish_producers (p : Nat) (r : Result) (v : Value) :
    (s.finish p r v).producers =
      s.producers.modify p fun P => { P with phase := .idle, result := r, value := v } := rfl
@[simp] theorem finish_cur (p : Nat) (r : Result) (v : Value) : (s.finish p r v).cur = s.cur := rfl
@[simp] theorem finish_trace (p : Nat) (r : Result) (v : Value) : (s.finish p r v).trace = s.trace := rfl
@[simp] theorem finish_env (p : Nat) (r : Result) (v : Value) : (s.finish p r v).env = s.env := rfl

@[simp] theorem raise_cfg (p : Nat) (e : Result) : (s.raise p e).cfg = s.cfg := rfl
@[simp] theorem raise_session (p : Nat) (e : Result) : (s.raise p e).session = s.session := rfl
@[simp] theorem raise_producers (p : Nat) (e : Result) :
    (s.raise p e).producers =
      s.producers.modify p fun P => { P with phase := .idle, result := e, value := .nothing } := rfl
@[simp] theorem raise_cur (p : Nat) (e : Result) : (s.raise p e).cur = s.cur := rfl
@[simp] theorem raise_trace (p : Nat) (e : Result) : (s.raise p e).trace = s.trace := rfl
@[simp] theorem raise_env (p : Nat) (e : Result) : (s.raise p e).env = s.env := rfl

@[simp] theorem returnOk_cfg (p : Nat) (v : Value) : (s.returnOk p v).cfg = s.cfg := rfl
@[simp] theorem returnOk_session (p : Nat) (v : Value) : (s.returnOk p v).session = s.session := rfl
@[simp] theorem returnOk_producers (p : Nat) (v : Value) :
    (s.returnOk p v).producers =
      s.producers.modify p fun P => { P with phase := .idle, result := .ok, value := v } := rfl
@[simp] theorem returnOk_cur (p : Nat) (v : Value) : (s.returnOk p v).cur = s.cur := rfl
@[simp] theorem returnOk_trace (p : Nat) (v : Value) : (s.returnOk p v).trace = s.trace := rfl
@[simp] theorem returnOk_env (p : Nat) (v : Value) : (s.returnOk p v).env = s.env := rfl

@[simp] theorem moveTaken_cfg : (s.moveTaken).cfg = s.cfg := rfl
@[simp] theorem moveTaken_session : (s.moveTaken).session = s.session := rfl
@[simp] theorem moveTaken_producers : (s.moveTaken).producers = s.producers := rfl
@[simp] theorem moveTaken_cur : (s.moveTaken).cur = s.cur := rfl
@[simp] theorem moveTaken_trace : (s.moveTaken).trace = s.trace := rfl
@[simp] theorem moveTaken_env :
    (s.moveTaken).env =
      { s.env with agenda := s.env.agenda.tail, draws := s.env.draws + 1 } := rfl

@[simp] theorem channelTaken_cfg : (s.channelTaken).cfg = s.cfg := rfl
@[simp] theorem channelTaken_session : (s.channelTaken).session = s.session := rfl
@[simp] theorem channelTaken_producers : (s.channelTaken).producers = s.producers := rfl
@[simp] theorem channelTaken_cur : (s.channelTaken).cur = s.cur := rfl
@[simp] theorem channelTaken_trace : (s.channelTaken).trace = s.trace := rfl
@[simp] theorem channelTaken_env :
    (s.channelTaken).env =
      { s.env with channel := s.env.channel.tail, draws := s.env.draws + 1 } := rfl

@[simp] theorem openerTaken_cfg : (s.openerTaken).cfg = s.cfg := rfl
@[simp] theorem openerTaken_session : (s.openerTaken).session = s.session := rfl
@[simp] theorem openerTaken_producers : (s.openerTaken).producers = s.producers := rfl
@[simp] theorem openerTaken_cur : (s.openerTaken).cur = s.cur := rfl
@[simp] theorem openerTaken_trace : (s.openerTaken).trace = s.trace := rfl
@[simp] theorem openerTaken_env :
    (s.openerTaken).env =
      { s.env with opener := s.env.opener.tail, draws := s.env.draws + 1 } := rfl

@[simp] theorem allocatorTaken_cfg : (s.allocatorTaken).cfg = s.cfg := rfl
@[simp] theorem allocatorTaken_session : (s.allocatorTaken).session = s.session := rfl
@[simp] theorem allocatorTaken_producers : (s.allocatorTaken).producers = s.producers := rfl
@[simp] theorem allocatorTaken_cur : (s.allocatorTaken).cur = s.cur := rfl
@[simp] theorem allocatorTaken_trace : (s.allocatorTaken).trace = s.trace := rfl
@[simp] theorem allocatorTaken_env :
    (s.allocatorTaken).env =
      { s.env with allocator := s.env.allocator.tail, draws := s.env.draws + 1 } := rfl

@[simp] theorem accept_cfg (p : Nat) (req : Request) (i : Instr) : (s.accept p req i).cfg = s.cfg := rfl
@[simp] theorem accept_session (p : Nat) (req : Request) (i : Instr) :
    (s.accept p req i).session =
      s.session := rfl
@[simp] theorem accept_producers (p : Nat) (req : Request) (i : Instr) :
    (s.accept p req i).producers =
      s.producers.modify p fun P => { P with op := i, pay := req.pay, port := P.port.tail } := rfl
@[simp] theorem accept_cur (p : Nat) (req : Request) (i : Instr) : (s.accept p req i).cur = s.cur := rfl
@[simp] theorem accept_trace (p : Nat) (req : Request) (i : Instr) : (s.accept p req i).trace = s.trace := rfl
@[simp] theorem accept_env (p : Nat) (req : Request) (i : Instr) : (s.accept p req i).env = s.env := rfl

@[simp] theorem latchPayValid_cfg (p : Nat) (v : Bool) : (s.latchPayValid p v).cfg = s.cfg := rfl
@[simp] theorem latchPayValid_session (p : Nat) (v : Bool) : (s.latchPayValid p v).session = s.session := rfl
@[simp] theorem latchPayValid_producers (p : Nat) (v : Bool) :
    (s.latchPayValid p v).producers =
      s.producers.modify p fun P => { P with payValid := v } := rfl
@[simp] theorem latchPayValid_cur (p : Nat) (v : Bool) : (s.latchPayValid p v).cur = s.cur := rfl
@[simp] theorem latchPayValid_trace (p : Nat) (v : Bool) : (s.latchPayValid p v).trace = s.trace := rfl
@[simp] theorem latchPayValid_env (p : Nat) (v : Bool) : (s.latchPayValid p v).env = s.env := rfl

@[simp] theorem drawn_cfg : (s.drawn).cfg = s.cfg := rfl
@[simp] theorem drawn_session : (s.drawn).session = s.session := rfl
@[simp] theorem drawn_producers : (s.drawn).producers = s.producers := rfl
@[simp] theorem drawn_cur : (s.drawn).cur = s.cur := rfl
@[simp] theorem drawn_trace : (s.drawn).trace = s.trace := rfl
@[simp] theorem drawn_env : (s.drawn).env = { s.env with draws := s.env.draws + 1 } := rfl

@[simp] theorem scheduled_cfg (p : Nat) : (s.scheduled p).cfg = s.cfg := rfl
@[simp] theorem scheduled_session (p : Nat) : (s.scheduled p).session = s.session := rfl
@[simp] theorem scheduled_producers (p : Nat) : (s.scheduled p).producers = s.producers := rfl
@[simp] theorem scheduled_cur (p : Nat) : (s.scheduled p).cur = p := rfl
@[simp] theorem scheduled_trace (p : Nat) : (s.scheduled p).trace = s.trace := rfl
@[simp] theorem scheduled_env (p : Nat) :
    (s.scheduled p).env =
      { s.env with agenda := s.env.agenda.tail, draws := s.env.draws + 1 } := rfl

@[simp] theorem installCapture_cfg (n : Nat) : (s.installCapture n).cfg = s.cfg := rfl
@[simp] theorem installCapture_session (n : Nat) :
    (s.installCapture n).session =
      { s.session with rxCap := n, rxBuf := List.replicate n 0, rxLen := 0, rxStale := false } := rfl
@[simp] theorem installCapture_producers (n : Nat) : (s.installCapture n).producers = s.producers := rfl
@[simp] theorem installCapture_cur (n : Nat) : (s.installCapture n).cur = s.cur := rfl
@[simp] theorem installCapture_trace (n : Nat) : (s.installCapture n).trace = s.trace := rfl
@[simp] theorem installCapture_env (n : Nat) : (s.installCapture n).env = s.env := rfl

@[simp] theorem assertReset_cfg : (s.assertReset).cfg = s.cfg := rfl
@[simp] theorem assertReset_session : (s.assertReset).session = Session.reset := rfl
@[simp] theorem assertReset_producers :
    (s.assertReset).producers =
      s.producers.map fun P => { Producer.reset with port := P.port } := rfl
@[simp] theorem assertReset_cur : (s.assertReset).cur = 0 := rfl
@[simp] theorem assertReset_trace : (s.assertReset).trace = [] := rfl
@[simp] theorem assertReset_env : (s.assertReset).env = s.env := rfl

/-! ## One producer after an update -/

theorem producers_length_setProducer (p : Nat) (f : Producer → Producer) :
    (s.setProducer p f).producers.length = s.producers.length := by
  simp

/-- The updated producer. -/
theorem producer_setProducer_self (p : Nat) (f : Producer → Producer) (h : p < s.producers.length) :
    (s.setProducer p f).producer p = f (s.producer p) := by
  simp [State.producer, List.getD_eq_getElem?_getD, List.getElem?_eq_getElem h]

/-- Every other producer. -/
theorem producer_setProducer_other (p q : Nat) (f : Producer → Producer) (h : q ≠ p) :
    (s.setProducer p f).producer q = s.producer q := by
  simp [State.producer, List.getD_eq_getElem?_getD, Ne.symm h]

/-- Reading a producer looks at the list of producers only. -/
theorem producer_congr {s t : State} (h : t.producers = s.producers) (q : Nat) : t.producer q = s.producer q := by
  simp [State.producer, h]

@[simp] theorem producer_setSession (f : Session → Session) (q : Nat) :
    (s.setSession f).producer q = s.producer q := rfl
@[simp] theorem producer_emit (e : Event) (q : Nat) : (s.emit e).producer q = s.producer q := rfl
@[simp] theorem producer_releaseLock (q : Nat) : (s.releaseLock).producer q = s.producer q := rfl
@[simp] theorem producer_unspecifyRxFrom (n q : Nat) : (s.unspecifyRxFrom n).producer q = s.producer q := rfl
@[simp] theorem producer_moveTaken (q : Nat) : (s.moveTaken).producer q = s.producer q := rfl
@[simp] theorem producer_channelTaken (q : Nat) : (s.channelTaken).producer q = s.producer q := rfl
@[simp] theorem producer_openerTaken (q : Nat) : (s.openerTaken).producer q = s.producer q := rfl
@[simp] theorem producer_allocatorTaken (q : Nat) : (s.allocatorTaken).producer q = s.producer q := rfl
@[simp] theorem producer_drawn (q : Nat) : (s.drawn).producer q = s.producer q := rfl
@[simp] theorem producer_scheduled (p q : Nat) : (s.scheduled p).producer q = s.producer q := rfl

/-- Two updates of the same producer are one. -/
theorem setProducer_setProducer (p : Nat) (f g : Producer → Producer) :
    (s.setProducer p f).setProducer p g = s.setProducer p fun P => g (f P) := by
  simp [State.setProducer, List.modify_modify_eq, Function.comp_def]

/-- An update that changes nothing. -/
theorem setProducer_id (p : Nat) : (s.setProducer p fun P => P) = s := by
  simp only [State.setProducer]
  have : s.producers.modify p (fun P => P) = s.producers := List.modify_id p s.producers
  rw [this]

end Sys2Proof.Machine
end

