-- ==== Sys2Proof/Laws/Sequencer.lean ====
section
/-! SUPPORT. For each shared operation of the sequencer, once, everything it can do: the form of its
result, and what it leaves alone. -/

namespace Sys2Proof.Machine

/-! ## Setting up a frame -/

/-- R124: the three outcomes of `BeginSend`. -/
theorem beginSend_cases (s : State) (p : Nat) (src : Src) (valid : Bool) (total : Nat) :
    (s.session.initialized = false ∧ s.beginSend p src valid total = s.raise p .notInitialized) ∨
      (s.session.initialized = true ∧ 0 < total ∧ valid = false ∧
        s.beginSend p src valid total = s.raise p .invalidArgument) ∨
      (s.session.initialized = true ∧ (total = 0 ∨ valid = true) ∧
        s.beginSend p src valid total = s.setProducer p fun P =>
          { P with dir := .send, src := src, total := total, cursor := 0, win := [], phase := .acq }) := by
  unfold State.beginSend
  by_cases hi : s.session.initialized = false
  · simp [hi]
  · by_cases hv : 0 < total ∧ valid = false
    · simp [hi, hv]
    · have : total = 0 ∨ valid = true := by
        rcases Nat.eq_zero_or_pos total with h | h
        · exact .inl h
        · right; cases valid <;> simp_all
      simp_all

/-- R134: the four outcomes of the issue step of `readInto`. -/
theorem beginReceive_cases (s : State) (p n : Nat) :
    (s.session.initialized = false ∧ s.beginReceive p n = s.raise p .notInitialized) ∨
      (s.session.initialized = true ∧ s.session.rxCap = 0 ∧ s.beginReceive p n = s.raise p .invalidState) ∨
      (s.session.initialized = true ∧ 0 < s.session.rxCap ∧ s.session.rxCap < n ∧
        s.beginReceive p n = s.raise p .invalidArgument) ∨
      (s.session.initialized = true ∧ 0 < s.session.rxCap ∧ n ≤ s.session.rxCap ∧
        s.beginReceive p n = s.setProducer p fun P =>
          { P with dir := .recv, total := n, cursor := 0, payPending := false, phase := .acq }) := by
  unfold State.beginReceive
  by_cases hi : s.session.initialized = false
  · simp [hi]
  · by_cases h0 : s.session.rxCap = 0
    · simp_all
    · by_cases hn : s.session.rxCap < n
      · simp_all; omega
      · simp_all; omega

/-- R150: `EncoderOp` after validation, on a session that is and one that is not initialized. -/
theorem encoderOp_cases (s : State) (p : Nat) (frame : List Byte) (payLen : Nat) :
    (s.session.initialized = false ∧ s.encoderOp p frame payLen = s.setProducer p fun P =>
        { P with
          hdr := memWrite P.hdr 0 frame, hdrLen := frame.length
          payPending := decide (0 < payLen), payTotal := payLen
          phase := .idle, result := .notInitialized, value := .nothing }) ∨
      (s.session.initialized = true ∧ s.encoderOp p frame payLen = s.setProducer p fun P =>
        { P with
          hdr := memWrite P.hdr 0 frame, hdrLen := frame.length
          payPending := decide (0 < payLen), payTotal := payLen
          dir := .send, src := .hdr, total := frame.length, cursor := 0, win := [], phase := .acq }) := by
  unfold State.encoderOp
  rcases beginSend_cases (s.setProducer p fun P =>
    { P with
      hdr := memWrite P.hdr 0 frame, hdrLen := frame.length
      payPending := decide (0 < payLen), payTotal := payLen }) p .hdr true frame.length with
    ⟨hi, h⟩ | ⟨_, _, h, _⟩ | ⟨hi, _, h⟩
  · left
    exact ⟨hi, by rw [h, State.raise, State.finish, setProducer_setProducer]⟩
  · cases h
  · right
    exact ⟨hi, by rw [h, setProducer_setProducer]⟩

/-! ## What the operations of one producer leave alone -/

/-- From `s` to `t` only the session, the context of producer `p`, the trace and the environment's answers
and draws have changed. -/
structure State.LocalTo (s : State) (p : Nat) (t : State) : Prop where
  cfg : t.cfg = s.cfg
  cur : t.cur = s.cur
  agenda : t.env.agenda = s.env.agenda
  ports : t.producers.length = s.producers.length
  others : ∀ q, q ≠ p → t.producer q = s.producer q

theorem State.LocalTo.refl (s : State) (p : Nat) : s.LocalTo p s := ⟨rfl, rfl, rfl, rfl, fun _ _ => rfl⟩

theorem State.LocalTo.trans {s t u : State} {p : Nat} (h : s.LocalTo p t) (k : t.LocalTo p u) : s.LocalTo p u :=
  ⟨k.cfg.trans h.cfg, k.cur.trans h.cur, k.agenda.trans h.agenda, k.ports.trans h.ports,
    fun q hq => (k.others q hq).trans (h.others q hq)⟩

/-- An update of the session, the trace or the environment's answers is local to every producer. -/
theorem State.LocalTo.of_producers_eq {s t : State} (p : Nat) (hc : t.cfg = s.cfg) (hu : t.cur = s.cur)
    (ha : t.env.agenda = s.env.agenda) (hp : t.producers = s.producers) : s.LocalTo p t :=
  ⟨hc, hu, ha, by rw [hp], fun q _ => producer_congr hp q⟩

theorem setProducer_localTo (s : State) (p : Nat) (f : Producer → Producer) : s.LocalTo p (s.setProducer p f) :=
  ⟨rfl, rfl, rfl, by simp, fun q hq => producer_setProducer_other s p q f hq⟩

theorem setSession_localTo (s : State) (p : Nat) (f : Session → Session) : s.LocalTo p (s.setSession f) :=
  .of_producers_eq p rfl rfl rfl rfl

theorem releaseLock_localTo (s : State) (p : Nat) : s.LocalTo p s.releaseLock :=
  .of_producers_eq p rfl rfl rfl rfl

theorem unspecifyRxFrom_localTo (s : State) (p n : Nat) : s.LocalTo p (s.unspecifyRxFrom n) :=
  .of_producers_eq p rfl rfl rfl rfl

theorem emit_localTo (s : State) (p : Nat) (e : Event) : s.LocalTo p (s.emit e) :=
  .of_producers_eq p rfl rfl rfl rfl

theorem channelTaken_localTo (s : State) (p : Nat) : s.LocalTo p s.channelTaken :=
  .of_producers_eq p rfl rfl rfl rfl

theorem openerTaken_localTo (s : State) (p : Nat) : s.LocalTo p s.openerTaken :=
  .of_producers_eq p rfl rfl rfl rfl

theorem allocatorTaken_localTo (s : State) (p : Nat) : s.LocalTo p s.allocatorTaken :=
  .of_producers_eq p rfl rfl rfl rfl

theorem drawn_localTo (s : State) (p : Nat) : s.LocalTo p s.drawn := .of_producers_eq p rfl rfl rfl rfl

theorem finish_localTo (s : State) (p : Nat) (r : Result) (v : Value) : s.LocalTo p (s.finish p r v) :=
  setProducer_localTo s p _

theorem raise_localTo (s : State) (p : Nat) (e : Result) : s.LocalTo p (s.raise p e) := finish_localTo s p e _

theorem returnOk_localTo (s : State) (p : Nat) (v : Value) : s.LocalTo p (s.returnOk p v) :=
  finish_localTo s p .ok v

theorem beginSend_localTo (s : State) (p : Nat) (src : Src) (valid : Bool) (total : Nat) :
    s.LocalTo p (s.beginSend p src valid total) := by
  rcases beginSend_cases s p src valid total with ⟨_, h⟩ | ⟨_, _, _, h⟩ | ⟨_, _, h⟩ <;> rw [h]
  · exact raise_localTo s p _
  · exact raise_localTo s p _
  · exact setProducer_localTo s p _

theorem beginReceive_localTo (s : State) (p n : Nat) : s.LocalTo p (s.beginReceive p n) := by
  rcases beginReceive_cases s p n with ⟨_, h⟩ | ⟨_, _, h⟩ | ⟨_, _, _, h⟩ | ⟨_, _, _, h⟩ <;> rw [h]
  · exact raise_localTo s p _
  · exact raise_localTo s p _
  · exact raise_localTo s p _
  · exact setProducer_localTo s p _

theorem encoderOp_localTo (s : State) (p : Nat) (frame : List Byte) (payLen : Nat) :
    s.LocalTo p (s.encoderOp p frame payLen) := by
  rcases encoderOp_cases s p frame payLen with ⟨_, h⟩ | ⟨_, h⟩ <;> rw [h] <;> exact setProducer_localTo s p _

theorem commitWindow_localTo (s : State) (p : Nat) : s.LocalTo p (s.commitWindow p) :=
  ((setSession_localTo s p _).trans (unspecifyRxFrom_localTo _ p _)).trans (setProducer_localTo _ p _)

theorem commitReceive_localTo (s : State) (p : Nat) : s.LocalTo p (s.commitReceive p) :=
  .of_producers_eq p rfl rfl rfl rfl

/-! ## The end of a frame (R129) -/

/-- The session after the capture commit of a `send`. -/
theorem commitWindow_session (s : State) (p : Nat) :
    (s.commitWindow p).session = { s.session with
      rxBuf := unspecifiedFrom (memWrite s.session.rxBuf 0 (s.producer p).win) (s.producer p).win.length s.env.draws
      rxLen := (s.producer p).win.length, rxStale := false } := rfl

/-- The producers after the capture commit of a `send`: the committed window is empty (R35). -/
theorem commitWindow_producers (s : State) (p : Nat) :
    (s.commitWindow p).producers = s.producers.modify p fun P => { P with win := [] } := rfl

/-- The session after the commit of a `readInto`. -/
theorem commitReceive_session (s : State) (p : Nat) :
    (s.commitReceive p).session = { s.session with
      rxBuf := unspecifiedFrom s.session.rxBuf (s.producer p).total s.env.draws
      rxLen := (s.producer p).total, rxStale := false } := rfl

/-- What the capture commit of a `send` frame does, if there is anything to commit. -/
def State.captured (s : State) (p : Nat) : State :=
  if s.session.capturing && decide (0 < (s.producer p).total) then s.commitWindow p else s

theorem captured_localTo (s : State) (p : Nat) : s.LocalTo p (s.captured p) := by
  unfold State.captured
  split
  · exact commitWindow_localTo s p
  · exact .refl s p

@[simp] theorem captured_trace (s : State) (p : Nat) : (s.captured p).trace = s.trace := by
  unfold State.captured; split <;> rfl

/-- The capture commit changes nothing of a producer but the window. -/
theorem captured_producers (s : State) (p : Nat) :
    (s.captured p).producers = s.producers.modify p fun P => { P with
      win := if s.session.capturing && decide (0 < (s.producer p).total) then [] else P.win } := by
  unfold State.captured
  split
  · rfl
  · exact (List.modify_id p s.producers).symm

/-- The capture commit leaves the number of producers. -/
@[simp] theorem captured_length (s : State) (p : Nat) :
    (s.captured p).producers.length = s.producers.length := by
  simp [captured_producers]

/-- The producer whose frame ended, after the capture commit: its window is empty if it was committed. -/
theorem producer_captured_self (s : State) (p : Nat) (h : p < s.producers.length) :
    (s.captured p).producer p = { s.producer p with
      win := if s.session.capturing && decide (0 < (s.producer p).total) then [] else (s.producer p).win } := by
  simp [State.producer, captured_producers, List.getD_eq_getElem?_getD, List.getElem?_eq_getElem h]

/-- The end of a `send` frame with no payload to follow: commit, release, `Ok`. -/
theorem frameDone_send_last (s : State) (p : Nat) (hd : (s.producer p).dir = .send)
    (hp : (s.producer p).payPending = false) :
    s.frameDone p = ((s.captured p).releaseLock).returnOk p .nothing := by
  simp [State.frameDone, State.captured, hd, hp]

/-- The end of a header frame with a payload to follow: commit, release, the payload's `BeginSend`. -/
theorem frameDone_send_payload (s : State) (p : Nat) (hd : (s.producer p).dir = .send)
    (hp : (s.producer p).payPending = true) :
    s.frameDone p = (((s.captured p).releaseLock).setProducer p fun Q =>
      { Q with payPending := false }).beginSend p .pay (s.producer p).payValid (s.producer p).payTotal := by
  simp [State.frameDone, State.captured, hd, hp]

/-- The end of a receive frame: the length is recorded, the lock released, `Ok`. -/
theorem frameDone_recv (s : State) (p : Nat) (hd : (s.producer p).dir = .recv) :
    s.frameDone p = ((s.commitReceive p).releaseLock).returnOk p .nothing := by
  simp [State.frameDone, hd]

theorem frameDone_localTo (s : State) (p : Nat) : s.LocalTo p (s.frameDone p) := by
  rcases hd : (s.producer p).dir with _ | _
  · rcases hp : (s.producer p).payPending with _ | _
    · rw [frameDone_send_last s p hd hp]
      exact ((captured_localTo s p).trans (releaseLock_localTo _ p)).trans (returnOk_localTo _ p _)
    · rw [frameDone_send_payload s p hd hp]
      exact (((captured_localTo s p).trans (releaseLock_localTo _ p)).trans (setProducer_localTo _ p _)).trans
        (beginSend_localTo _ p _ _ _)
  · rw [frameDone_recv s p hd]
    exact ((commitReceive_localTo s p).trans (releaseLock_localTo _ p)).trans (returnOk_localTo _ p _)

@[simp] theorem beginSend_trace (s : State) (p : Nat) (src : Src) (valid : Bool) (total : Nat) :
    (s.beginSend p src valid total).trace = s.trace := by
  rcases beginSend_cases s p src valid total with ⟨_, h⟩ | ⟨_, _, _, h⟩ | ⟨_, _, h⟩ <;> rw [h] <;> rfl

@[simp] theorem beginSend_session (s : State) (p : Nat) (src : Src) (valid : Bool) (total : Nat) :
    (s.beginSend p src valid total).session = s.session := by
  rcases beginSend_cases s p src valid total with ⟨_, h⟩ | ⟨_, _, _, h⟩ | ⟨_, _, h⟩ <;> rw [h] <;> rfl

@[simp] theorem beginSend_env (s : State) (p : Nat) (src : Src) (valid : Bool) (total : Nat) :
    (s.beginSend p src valid total).env = s.env := by
  rcases beginSend_cases s p src valid total with ⟨_, h⟩ | ⟨_, _, _, h⟩ | ⟨_, _, h⟩ <;> rw [h] <;> rfl

/-- The end of a frame makes no trace event. -/
@[simp] theorem frameDone_trace (s : State) (p : Nat) : (s.frameDone p).trace = s.trace := by
  rcases hd : (s.producer p).dir with _ | _
  · rcases hp : (s.producer p).payPending with _ | _
    · rw [frameDone_send_last s p hd hp]; simp
    · rw [frameDone_send_payload s p hd hp]; simp
  · rw [frameDone_recv s p hd]; rfl

/-- R196: the end of a frame releases the lock. -/
theorem frameDone_lockOwner (s : State) (p : Nat) : (s.frameDone p).session.lockOwner = none := by
  rcases hd : (s.producer p).dir with _ | _
  · rcases hp : (s.producer p).payPending with _ | _
    · rw [frameDone_send_last s p hd hp]; simp
    · rw [frameDone_send_payload s p hd hp]; simp
  · rw [frameDone_recv s p hd]; rfl

/-! ## Failure, acquisition, chunks -/

theorem chunkFailed_localTo (s : State) (p code : Nat) : s.LocalTo p (s.chunkFailed p code) := by
  unfold State.chunkFailed
  dsimp only
  split
  · exact ((((setSession_localTo s p _).trans (unspecifyRxFrom_localTo _ p 0)).trans
      (releaseLock_localTo _ p)).trans (setProducer_localTo _ p _)).trans (raise_localTo _ p _)
  · exact ((releaseLock_localTo s p).trans (setProducer_localTo _ p _)).trans (raise_localTo _ p _)

theorem acquireStep_localTo (s : State) (p : Nat) : s.LocalTo p (s.acquireStep p) := by
  unfold State.acquireStep
  dsimp only
  split
  · exact (setSession_localTo s p _).trans (frameDone_localTo _ p)
  · exact (setSession_localTo s p _).trans (setProducer_localTo _ p _)

theorem storeChunk_localTo (s : State) (p : Nat) (rx : List Byte) : s.LocalTo p (s.storeChunk p rx) := by
  unfold State.storeChunk
  split
  · split
    · exact setProducer_localTo s p _
    · exact .refl s p
  · exact setSession_localTo s p _

theorem chunkDone_localTo (s : State) (p k : Nat) (rx : List Byte) : s.LocalTo p (s.chunkDone p k rx) := by
  unfold State.chunkDone
  dsimp only
  split
  · exact ((storeChunk_localTo s p rx).trans (setProducer_localTo _ p _)).trans (frameDone_localTo _ p)
  · exact (storeChunk_localTo s p rx).trans (setProducer_localTo _ p _)

theorem transferChunk_localTo (s : State) (p : Nat) : s.LocalTo p (s.transferChunk p) := by
  unfold State.transferChunk
  dsimp only
  split
  · exact ((channelTaken_localTo s p).trans (emit_localTo _ p _)).trans (chunkDone_localTo _ p _ _)
  · exact ((channelTaken_localTo s p).trans (emit_localTo _ p _)).trans (chunkFailed_localTo _ p _)

@[simp] theorem storeChunk_trace (s : State) (p : Nat) (rx : List Byte) :
    (s.storeChunk p rx).trace = s.trace := by
  unfold State.storeChunk
  split
  · split <;> rfl
  · rfl

@[simp] theorem chunkDone_trace (s : State) (p k : Nat) (rx : List Byte) :
    (s.chunkDone p k rx).trace = s.trace := by
  unfold State.chunkDone
  dsimp only
  split <;> simp

@[simp] theorem chunkFailed_trace (s : State) (p code : Nat) : (s.chunkFailed p code).trace = s.trace := by
  unfold State.chunkFailed
  dsimp only
  split <;> rfl

/-- An answer with bytes to a transfer of `k` bytes has `k` bytes (R15). -/
theorem channelAnswer_length {s : State} {k : Nat} {rx : List Byte} (h : s.channelAnswer k = .ok rx) :
    rx.length = k := by
  unfold State.channelAnswer fitAnswer at h
  split at h
  · cases h
    simp
  · cases h

/-- A failure code has `ERR_BITS` bits (R15). -/
theorem channelAnswer_code {s : State} {k code : Nat} (h : s.channelAnswer k = .fail code) :
    code < 2 ^ s.cfg.errBits := by
  unfold State.channelAnswer fitAnswer at h
  split at h
  · cases h
  · cases h
    exact Nat.mod_lt _ (Nat.two_pow_pos _)

/-- R58, R128: a chunk step appends exactly one event, a transfer by its producer. -/
theorem transferChunk_trace (s : State) (p : Nat) :
    ∃ rx status, (s.transferChunk p).trace =
      s.trace ++ [.xfer p (s.chunkKind p) (s.chunkTx p) rx status] := by
  unfold State.transferChunk
  dsimp only
  split
  · exact ⟨_, _, by simp; exact ⟨rfl, rfl⟩⟩
  · exact ⟨_, _, by simp; exact ⟨rfl, rfl⟩⟩

end Sys2Proof.Machine
end

