-- ==== Sys2Proof/Laws/Step.lean ====
section
/-! SUPPORT. What one step can do: its equations phase by phase, and one inversion lemma. -/

namespace Sys2Proof.Machine

/-- A scheduled producer of the block takes its step. -/
theorem step_run {s : State} {p : Nat} (hm : s.nextMove = .run p) (hp : p < s.producers.length) :
    step s = producerStep (s.scheduled p) p := by
  simp [step, hm, hp]

/-- The reset input. -/
theorem step_reset {s : State} (hm : s.nextMove = .reset) : step s = .next (s.moveTaken).assertReset := by
  simp [step, hm]

theorem producerStep_idle {s : State} {p : Nat} (h : (s.producer p).phase = .idle) :
    producerStep s p = issueStep s p := by
  simp [producerStep, h]

theorem producerStep_acq {s : State} {p : Nat} (h : (s.producer p).phase = .acq) :
    producerStep s p = s.waitStep p := by
  simp [producerStep, h]

theorem producerStep_xfer {s : State} {p : Nat} (h : (s.producer p).phase = .xfer) :
    producerStep s p = s.chunkStep p := by
  simp [producerStep, h]

/-- Everything a step of one producer can do when it answers a next state. -/
inductive StepsTo (s : State) (p : Nat) (t : State) : Prop where
  /-- Idle, with nothing requested. -/
  | waits (phase : (s.producer p).phase = .idle) (port : (s.producer p).port = []) (next : t = s)
  /-- Idle, with a request that names an operation: R125. -/
  | issues (req : Request) (more : List Request) (i : Instr) (phase : (s.producer p).phase = .idle)
      (port : (s.producer p).port = req :: more) (reads : decodePort s.cfg.hasCapture req.words = .ok i)
      (fits : i.wellFormed s.cfg.sizeBits = true) (next : exec i (s.accept p req i) = .next t)
  /-- Idle, with a selector that names none: R99. -/
  | rejects (req : Request) (more : List Request) (sel : Selector) (phase : (s.producer p).phase = .idle)
      (port : (s.producer p).port = req :: more)
      (reads : decodePort s.cfg.hasCapture req.words = .error (.unassigned sel)) (next : t = s.rejectSelector p)
  /-- Waiting, and the lock is free: R126. -/
  | acquires (phase : (s.producer p).phase = .acq) (free : s.session.lockOwner = none)
      (next : t = s.acquireStep p)
  /-- Waiting, and another producer holds the lock: R127. -/
  | timesOut (q : Nat) (phase : (s.producer p).phase = .acq) (held : s.session.lockOwner = some q) (ne : q ≠ p)
      (next : t = s.timeoutStep p)
  /-- Moving a chunk: R128. -/
  | moves (phase : (s.producer p).phase = .xfer) (owner : s.session.lockOwner = some p)
      (some_left : s.chunkSize p ≠ 0) (next : t = s.transferChunk p)

theorem producerStep_cases {s t : State} {p : Nat} (h : producerStep s p = .next t) : StepsTo s p t := by
  rcases hph : (s.producer p).phase with _ | _ | _
  · rw [producerStep_idle hph] at h
    unfold issueStep at h
    split at h
    · rename_i hport
      cases h
      exact .waits hph hport rfl
    · rename_i req more hport
      split at h
      · rename_i i hi
        split at h
        · rename_i hw
          exact .issues req more i hph hport hi hw h
        · cases h
      · rename_i sel hsel
        cases h
        exact .rejects req more sel hph hport hsel rfl
      · cases h
  · rw [producerStep_acq hph] at h
    unfold State.waitStep at h
    split at h
    · rename_i hfree
      cases h
      exact .acquires hph hfree rfl
    · rename_i q hheld
      split at h
      · cases h
      · rename_i hne
        cases h
        exact .timesOut q hph hheld hne rfl
  · rw [producerStep_xfer hph] at h
    unfold State.chunkStep at h
    split at h
    · cases h
    · rename_i howner
      split at h
      · cases h
      · rename_i hk
        cases h
        exact .moves hph (not_not.mp howner) hk rfl

/-- Everything a step can do when it answers a next state. -/
theorem step_cases {s t : State} (h : step s = .next t) :
    (s.nextMove = .reset ∧ t = (s.moveTaken).assertReset) ∨
      ∃ p, s.nextMove = .run p ∧ p < s.producers.length ∧ StepsTo (s.scheduled p) p t := by
  rcases hm : s.nextMove with p | _
  · right
    by_cases hp : p < s.producers.length
    · rw [step_run hm hp] at h
      exact ⟨p, rfl, hp, producerStep_cases h⟩
    · simp [step, hm, hp] at h
  · left
    rw [step_reset hm] at h
    cases h
    exact ⟨rfl, rfl⟩

end Sys2Proof.Machine
end

