-- ==== Sys2Proof/Tests/Slice0.lean ====
section
/-! SUPPORT. Tests. Expected results come from spec/95_test_vectors.md (the vector is named at each test)
or are written out by hand from the rule named. Then, for each statement with hypotheses, a concrete
state and operands that meet them, at the boundary values of its clauses. -/

namespace Sys2Proof.Tests

open Sys2Proof.Machine

/-! ## Small states -/

/-- `REF` (spec/00_scope.md R9) with the given `MAX_CHUNK` and `SIZE_BITS`, and a short pattern in the
manner of `ST_REF`: `MAX_CHUNK + 2` bytes from `AA` to `55`, the marker last but one. -/
def ref (maxChunk sizeBits : Nat) : Config where
  fbCount := 4
  maxChunk := maxChunk
  lockTimeoutSeconds := 1
  nProd := 2
  codes := ⟨0, 1, 2, 0, 1, 2, 0, 1, 2, 0, 1⟩
  sizeBits := sizeBits
  errBits := 32
  hasCapture := true
  busCfg := ⟨0, [], []⟩
  pattern := ⟨0xAA :: ((List.range maxChunk).map (BitVec.ofNat 8) ++ [0x55]), maxChunk⟩
  hsv := .standard

/-- An initialized session with a capture buffer of `n` zero bytes. -/
def opened (n : Nat) : Session :=
  { Session.reset with busValid := true, devValid := true, lockValid := true, rxCap := n, rxBuf := List.replicate n 0 }

/-- A block of two producers, the second as at reset; every environment answer good unless given. -/
def block (c : Config) (S : Session) (P : Producer) (moves : List Move) (answers : List XferAnswer) : State where
  cfg := c
  session := S
  producers := [P, Producer.reset]
  cur := 0
  trace := []
  env := { agenda := moves, channel := answers, opener := [.ok, .ok], allocator := [true], draws := 0 }

/-- An idle block with the session open and a capture buffer of `n` bytes. -/
def idle (n : Nat) : State := block (ref 4096 32) (opened n) Producer.reset [] []

/-- The bytes `DE AD BE EF` behind the payload port (S10). -/
def fourBytes : Memory := [(0, 0xDE), (1, 0xAD), (2, 0xBE), (3, 0xEF)]

/-- A producer in the middle of sending `total` of those bytes. -/
def sending (cursor total : Nat) : Producer :=
  { Producer.reset with
    phase := .xfer, cursor := cursor, total := total, src := .pay, payValid := true, op := .send true total
    pay := fourBytes }

/-- The session with the lock held by producer 0. -/
def locked (n : Nat) : Session := { opened n with lockOwner := some 0 }

/-- A next state with the given property. -/
def after (o : Host.Outcome State Fault Refusal) (f : State → Bool) : Bool :=
  match o with
  | .next t => f t
  | .fault _ => false
  | .refused _ => false

/-- Producer 0 ended with this result and value. -/
def ended (r : Result) (v : Value) (t : State) : Bool :=
  decide ((t.producer 0).phase = .idle ∧ (t.producer 0).result = r ∧ (t.producer 0).value = v)

/-- Producer 0 waits for the lock with this header staged. -/
def staged (frame : List Byte) (t : State) : Bool :=
  decide ((t.producer 0).phase = .acq ∧ (t.producer 0).hdr.take (t.producer 0).hdrLen = frame ∧
    (t.producer 0).total = frame.length)

/-! ## WellFormed refuses an ill-formed term of each kind -/

theorem test_alpha_needs_denominator : (Instr.fromRGBA 1 2 3 ⟨1, 0⟩).wellFormed 32 = false := by decide
theorem test_send_length_too_wide : (Instr.send true 65536).wellFormed 16 = false := by decide
theorem test_capacity_too_wide : (Instr.setReceiveCapacity 65536).wellFormed 16 = false := by decide
theorem test_read_too_wide : (Instr.readInto 65536).wellFormed 16 = false := by decide

/-! ## Decoding: words written out from R96 (selector) and log 6 (operands) -/

theorem test_decode_fromRGB : decodeRequest [0b00000, 18, 52, 86] = .ok (.fromRGB 18 52 86) := by decide
theorem test_decode_fromRGBA : decodeRequest [0b00001, 200, 100, 50, 2, 1] = .ok (.fromRGBA 200 100 50 ⟨1, 2⟩) := by decide
theorem test_decode_fromRGBA_negative : decodeRequest [0b00001, 1, 2, 3, 1, 3] = .ok (.fromRGBA 1 2 3 ⟨-1, 4⟩) := by decide
theorem test_decode_fromHSV : decodeRequest [0b00010, 100, 200, 150] = .ok (.fromHSV 100 200 150) := by decide
theorem test_decode_initialize : decodeRequest [0b00011] = .ok .initializeSession := by decide
theorem test_decode_send : decodeRequest [0b00100, 1, 0x80, 0x20] = .ok (.send true 4096) := by decide
theorem test_decode_setReceiveCapacity : decodeRequest [0b00101, 8] = .ok (.setReceiveCapacity 8) := by decide
theorem test_decode_readInto : decodeRequest [0b00110, 0xFF, 0x01] = .ok (.readInto 255) := by decide
theorem test_decode_lastReceived : decodeRequest [0b00111] = .ok .lastReceived := by decide
theorem test_decode_deinitialize : decodeRequest [0b01000] = .ok .deinitializeSession := by decide
theorem test_decode_displayInit :
    decodeRequest [0b01001, 1, 2, 3, 4, 0x2C, 0x01, 0x02, 0x01] = .ok (.displayInit 1 2 3 4 300 258) := by decide
theorem test_decode_displayDeinit : decodeRequest [0b01010] = .ok .displayDeinit := by decide
theorem test_decode_displayFlip : decodeRequest [0b01011, 3] = .ok (.displayFlip 3) := by decide
theorem test_decode_clear : decodeRequest [0b01100, 1, 255, 0, 0] = .ok (.framebufferClear 1 ⟨255, 0, 0⟩) := by decide
theorem test_decode_blit :
    decodeRequest [0b01101, 0, 1, 0x02, 0x01, 3, 0, 4, 0, 5, 0, 16, 0, 8, 0] =
      .ok (.framebufferBlit 0 1 0x0102 3 4 5 16 8) := by decide
theorem test_decode_draw :
    decodeRequest [0b01110, 1, 5, 0, 6, 0, 0, 0, 0xBC, 0x02, 0] = .ok (.framebufferDraw 1 5 6 0 700 false) := by decide
theorem test_decode_hwinfo : decodeRequest [0b01111] = .ok .miscHwinfo := by decide
theorem test_decode_stat : decodeRequest [0b10000] = .ok .miscStat := by decide
theorem test_decode_selfTest : decodeRequest [0b10001, 0x5A] = .ok (.selfTest 0x5A) := by decide

/-- R99: `0x12` names no operation; bits above the selector are reserved. -/
theorem test_decode_rejects :
    decodeRequest [0x12] = .error (.unassigned 0x12) ∧ decodeRequest [0x20] = .error (.reservedBits 0x20) ∧
      decodeRequest [0b01011] = .error .truncated ∧ decodeRequest [] = .error .empty ∧
      decodeRequest [0b00011, 1] = .error .trailing ∧ decodeRequest [0b00100, 2, 0] = .error (.badBit 2) ∧
      decodePort false [0b00111] = .error (.unassigned 7) := by decide

/-! ## The wire frames of the spec's vectors, both ways -/

/-- VD1, VD3. -/
theorem test_wire_displayInit :
    headerFrame (ref 4096 32).codes (.displayInit 2 8 13 14 64 32) = [0, 0, 2, 8, 0x0D, 0x0E, 0x40, 0, 0x20, 0] ∧
      decodeHeader (ref 4096 32).codes [0, 0, 1, 2, 3, 4, 0x2C, 1, 2, 1] = .ok (.displayInit 1 2 3 4 300 258) := by
  decide

/-- VD4, VD6, VG1, VG2. -/
theorem test_wire_short_frames :
    decodeHeader (ref 4096 32).codes [0, 1] = .ok .displayDeinit ∧
      decodeHeader (ref 4096 32).codes [0, 2, 3] = .ok (.displayFlip 3) ∧
      decodeHeader (ref 4096 32).codes [2, 0] = .ok .miscHwinfo ∧
      decodeHeader (ref 4096 32).codes [2, 1] = .ok .miscStat ∧
      decodeHeader (ref 4096 32).codes [3, 0] = .error (.unknownCategory 3) ∧
      decodeHeader (ref 4096 32).codes [2, 2] = .error (.unknownOpcode 2 2) := by decide

/-- VF1, VF2. -/
theorem test_wire_clear :
    headerFrame (ref 4096 32).codes (.framebufferClear 1 ⟨255, 0, 0⟩) = [1, 0, 0xFF, 0, 0, 1] ∧
      decodeHeader (ref 4096 32).codes [1, 0, 0x12, 0x34, 0x56, 3] = .ok (.framebufferClear 3 ⟨18, 52, 86⟩) := by decide

/-- VF4. -/
theorem test_wire_blit :
    headerFrame (ref 4096 32).codes (.framebufferBlit 0 1 0x0102 3 4 5 16 8) =
      [1, 1, 2, 1, 3, 0, 4, 0, 5, 0, 0x10, 0, 8, 0, 0, 1] ∧
    decodeHeader (ref 4096 32).codes [1, 1, 2, 1, 3, 0, 4, 0, 5, 0, 0x10, 0, 8, 0, 0, 1] =
      .ok (.framebufferBlit 0 1 0x0102 3 4 5 16 8) := by decide

/-- VF8. -/
theorem test_wire_draw :
    headerFrame (ref 4096 32).codes (.framebufferDraw 1 5 6 0 700 false) = [1, 2, 5, 0, 6, 0, 0, 0, 0xBC, 2, 1] ∧
      decodeHeader (ref 4096 32).codes [1, 2, 5, 0, 6, 0, 0, 0, 0xBC, 2, 1] =
        .ok (.framebufferDraw 1 5 6 0 700 false) := by decide

/-- R100, on the example of R164 and VG2: the first two bytes give the header's length, `w` and `h` the payload's; the next command
follows at once. As frames: the payload is a separate frame of that length. -/
theorem test_wire_stream :
    readStream (ref 4096 32).codes ([1, 2, 1, 0, 2, 0, 2, 0, 1, 0, 0] ++ [10, 20, 30, 40, 50, 60] ++ [2, 1]) =
      .ok [⟨.framebufferDraw 0 1 2 2 1 false, [10, 20, 30, 40, 50, 60]⟩, ⟨.miscStat, []⟩] ∧
    readFrames (ref 4096 32).codes [[1, 2, 1, 0, 2, 0, 2, 0, 1, 0, 0], [10, 20, 30, 40, 50, 60], [2, 1]] =
      .ok [⟨.framebufferDraw 0 1 2 2 1 false, [10, 20, 30, 40, 50, 60]⟩, ⟨.miscStat, []⟩] := by decide

/-- A payload too short, a header cut off, and a payload frame of another length than announced. -/
theorem test_wire_stream_rejects :
    readStream (ref 4096 32).codes [1, 2, 1, 0, 2, 0, 2, 0, 1, 0, 0, 10] = .error .short ∧
      readStream (ref 4096 32).codes [0, 2] = .error .short ∧
      readFrames (ref 4096 32).codes [[1, 2, 1, 0, 2, 0, 2, 0, 1, 0, 0], [10]] = .error (.badLength 1) := by decide

/-! ## One step of each operation -/

/-- VC3. -/
theorem test_fromRGB : after (exec (.fromRGB 18 52 86) (idle 0)) (ended .ok (.color ⟨18, 52, 86⟩)) = true := by decide

/-- VC7: ties away from zero. -/
theorem test_fromRGBA_ties :
    after (exec (.fromRGBA 255 1 3 ⟨1, 2⟩) (idle 0)) (ended .ok (.color ⟨128, 1, 2⟩)) = true := by decide

/-- VC12: the scaled value is clamped, not the channel kept. -/
theorem test_fromRGBA_clamps :
    after (exec (.fromRGBA 100 200 255 ⟨2, 1⟩) (idle 0)) (ended .ok (.color ⟨200, 255, 255⟩)) = true := by decide

/-- VH14. -/
theorem test_fromHSV : after (exec (.fromHSV 100 200 150) (idle 0)) (ended .ok (.color ⟨32, 150, 71⟩)) = true := by decide

/-- VH13: the sixth region. -/
theorem test_fromHSV_last_region :
    after (exec (.fromHSV 255 255 255) (idle 0)) (ended .ok (.color ⟨255, 0, 15⟩)) = true := by decide

/-- VT50. -/
theorem test_initialize :
    after (exec .initializeSession (block (ref 4096 32) Session.reset Producer.reset [] [])) (fun t =>
      ended .ok .nothing t && t.session.initialized &&
        decide (t.trace = [.openBus .ok, .openDevice .ok, .openLock true])) = true := by decide

/-- VT55: from bits 1, 0, 0 the bus is not reopened. -/
theorem test_initialize_again :
    after (exec .initializeSession
      (block (ref 4096 32) { Session.reset with busValid := true } Producer.reset [] [])) (fun t =>
      t.session.initialized && decide (t.trace = [.openDevice .ok, .openLock true])) = true := by decide

/-- VT58. -/
theorem test_deinitialize :
    after (exec .deinitializeSession (idle 0)) (fun t =>
      ended .ok .nothing t && !t.session.busValid && !t.session.devValid && !t.session.lockValid &&
        decide (t.trace = [.close .device, .close .bus, .close .lock])) = true := by decide

/-- VT12, VT11. -/
theorem test_send_prechecks :
    after (exec (.send false 3) (idle 0)) (ended .invalidArgument .nothing) = true ∧
      after (exec (.send false 0) (block (ref 4096 32) Session.reset Producer.reset [] []))
        (ended .notInitialized .nothing) = true := by decide

/-- VT33. -/
theorem test_setReceiveCapacity :
    after (exec (.setReceiveCapacity 16) (idle 8)) (fun t =>
      ended .ok .nothing t && decide (t.session.rxCap = 16 ∧ t.session.rxBuf = List.replicate 16 0) &&
        decide (t.trace = [.alloc 16 true, .free 8])) = true := by decide

/-- VT38, VT36. -/
theorem test_readInto_checks :
    after (exec (.readInto 9) (idle 8)) (ended .invalidArgument .nothing) = true ∧
      after (exec (.readInto 1) (idle 0)) (ended .invalidState .nothing) = true := by decide

/-- VT31. -/
theorem test_lastReceived :
    after (exec .lastReceived (idle 8)) (ended .ok (.received (List.replicate 8 0) 0)) = true := by decide

/-- VD1. -/
theorem test_displayInit :
    after (exec (.displayInit 2 8 13 14 64 32) (idle 0))
      (staged [0, 0, 2, 8, 0x0D, 0x0E, 0x40, 0, 0x20, 0]) = true := by decide

/-- VD4. -/
theorem test_displayDeinit : after (exec .displayDeinit (idle 0)) (staged [0, 1]) = true := by decide

/-- VD6. -/
theorem test_displayFlip : after (exec (.displayFlip 3) (idle 0)) (staged [0, 2, 3]) = true := by decide

/-- VD9, VD10: the index is checked before the session; with a legal one the header is built first. -/
theorem test_displayFlip_uninitialized :
    after (exec (.displayFlip 9) (block (ref 4096 32) Session.reset Producer.reset [] []))
        (ended .indexOutOfRange .nothing) = true ∧
      after (exec (.displayFlip 1) (block (ref 4096 32) Session.reset Producer.reset [] [])) (fun t =>
        ended .notInitialized .nothing t && decide ((t.producer 0).hdr.take (t.producer 0).hdrLen = [0, 2, 1])) =
          true := by decide

/-- VF1. -/
theorem test_clear : after (exec (.framebufferClear 1 ⟨255, 0, 0⟩) (idle 0)) (staged [1, 0, 0xFF, 0, 0, 1]) = true := by
  decide

/-- VF5: no area check on blit, also with a 16-bit size type. -/
theorem test_blit :
    after (exec (.framebufferBlit 2 2 65535 65535 0 0 65535 65535)
        (block (ref 4096 16) (opened 0) Producer.reset [] []))
      (staged [1, 1, 0xFF, 0xFF, 0xFF, 0xFF, 0, 0, 0, 0, 0xFF, 0xFF, 0xFF, 0xFF, 2, 2]) = true := by decide

/-- VF13: `255 * 257 = 65535` fits 16 bits; the payload length is exact beyond them. -/
theorem test_draw_fits :
    after (exec (.framebufferDraw 3 0 0 255 257 true) (block (ref 4096 16) (opened 0) Producer.reset [] [])) (fun t =>
      staged [1, 2, 0, 0, 0, 0, 0xFF, 0, 1, 1, 3] t &&
        decide ((t.producer 0).payPending = true ∧ (t.producer 0).payTotal = 196605)) = true := by decide

/-- VF10, VE1. -/
theorem test_draw_overflow :
    after (exec (.framebufferDraw 0 0 0 256 256 true) (block (ref 4096 16) (opened 0) Producer.reset [] []))
        (ended .sizeOverflow .nothing) = true ∧
      after (exec (.framebufferDraw 4 0 0 256 256 false) (block (ref 4096 16) Session.reset Producer.reset [] []))
        (ended .indexOutOfRange .nothing) = true := by decide

/-- VG1. -/
theorem test_hwinfo : after (exec .miscHwinfo (idle 0)) (staged [2, 0]) = true := by decide

/-- VG2. -/
theorem test_stat : after (exec .miscStat (idle 0)) (staged [2, 1]) = true := by decide

/-- R172, R173: the marker stands between the sentinels of the pattern that `ref 4` has. -/
theorem test_selfTest :
    after (exec (.selfTest 0x5A) (block (ref 4 32) (opened 0) Producer.reset [] [])) (fun t =>
      decide ((t.producer 0).pat = [0xAA, 0, 1, 2, 0x5A, 0x55] ∧ (t.producer 0).total = 6 ∧
        (t.producer 0).src = .pat ∧ (t.producer 0).phase = .acq)) = true := by decide

/-! ## One step of the sequencer -/

/-- S10, VT1: the first chunk. -/
theorem test_chunk :
    after (step (block (ref 2 32) (locked 0) (sending 0 4) [.run 0] [.ok [0xDE, 0xAD]])) (fun t =>
      decide (t.trace = [.xfer 0 .tx (some [0xDE, 0xAD]) none .ok] ∧ (t.producer 0).cursor = 2 ∧
        t.session.lockOwner = some 0)) = true := by decide

/-- VT20: the second chunk, with a capture buffer of 8 bytes. -/
theorem test_last_chunk_captures :
    after (step (block (ref 2 32) (locked 8) { sending 2 4 with win := [0xDE, 0xAD] } [.run 0] [.ok [0xBE, 0xEF]]))
      (fun t => ended .ok .nothing t && decide (t.session.lockOwner = none ∧ t.session.rxLen = 4 ∧
        t.session.rxBuf.take 4 = [0xDE, 0xAD, 0xBE, 0xEF] ∧ (t.producer 0).win = [])) = true := by decide

/-- VT21: capacity 3, the window crosses the chunk boundary. -/
theorem test_window_slides :
    after (step (block (ref 2 32) (locked 3) { sending 2 4 with win := [0xDE, 0xAD] } [.run 0] [.ok [0xBE, 0xEF]]))
      (fun t => decide (t.session.rxLen = 3 ∧ t.session.rxBuf = [0xAD, 0xBE, 0xEF])) = true := by decide

/-- VT15: the second transfer fails with code 7. -/
theorem test_chunk_fails :
    after (step (block (ref 2 32) (locked 0) (sending 2 4) [.run 0] [.fail 7])) (fun t =>
      ended (.transferFailed 7) .nothing t &&
        decide (t.trace = [.xfer 0 .tx (some [0xBE, 0xEF]) none (.fail 7)] ∧ t.session.lockOwner = none)) = true := by
  decide

/-- VT14: the time-out step. -/
theorem test_timeout :
    after (step (block (ref 2 32) { opened 0 with lockOwner := some 1 } { sending 0 1 with phase := .acq } [.run 0] []))
      (ended .timeout .nothing) = true := by decide

/-- VT39: a receive of three bytes. -/
theorem test_receive :
    after (step (block (ref 4096 32) (locked 8) { sending 0 3 with dir := .recv, op := .readInto 3 } [.run 0]
        [.ok [0x11, 0x22, 0x33]])) (fun t =>
      ended .ok .nothing t && decide (t.trace = [.xfer 0 .rx none (some [0x11, 0x22, 0x33]) .ok] ∧
        t.session.rxLen = 3 ∧ t.session.rxBuf.take 3 = [0x11, 0x22, 0x33])) = true := by decide

/-- VK5: refused while a frame is moving. -/
theorem test_refused_in_use :
    exec .deinitializeSession (block (ref 2 32) (locked 0) (sending 0 4) [] []) =
      .refused (.sessionInUse "deinitialize") := by rfl

/-! ## The invariant of small states -/

/-- What `Producer.Inv` asks, as a test. -/
def producerCheck (c : Config) (rxCap : Nat) (P : Producer) : Bool :=
  decide (P.hdr.length = 16 ∧ P.hdrLen ≤ 16 ∧ P.cursor ≤ P.total ∧ (P.phase = .xfer → P.cursor < P.total) ∧
    (P.phase = .acq → P.cursor = 0) ∧ P.total < 2 ^ c.lenBits ∧ P.payTotal < 2 ^ c.lenBits) &&
  decide (P.win.length ≤ rxCap ∧ (P.win ≠ [] → P.phase = .xfer ∧ P.dir = .send) ∧
    (P.phase ≠ .idle → P.dir = .recv → P.total ≤ rxCap) ∧
    (P.phase ≠ .idle → P.dir = .send → P.src = .hdr → P.total = P.hdrLen) ∧
    (P.phase ≠ .idle → P.dir = .send → P.src = .pat → P.total = P.pat.length)) &&
  decide ((P.phase ≠ .idle → P.payPending = true → P.dir = .send ∧ P.src = .hdr ∧ 0 < P.total ∧ 0 < P.payTotal) ∧
    P.result.fits c.errBits = true ∧ Memory.wf P.pay = true ∧ ∀ r ∈ P.port, Memory.wf r.pay = true)

/-- What `State.Inv` asks, as a test. -/
def check (s : State) : Bool :=
  decide (s.cfg.wf = true ∧ s.producers.length = s.cfg.nProd ∧ s.session.rxLen ≤ s.session.rxCap ∧
    s.session.rxBuf.length = s.session.rxCap ∧ s.session.rxCap < 2 ^ s.cfg.sizeBits ∧
    (s.cfg.hasCapture = false → s.session.rxCap = 0) ∧
    (s.session.lockOwner ≠ none → s.session.lockValid = true) ∧
    (∀ q ∈ s.session.lockOwner, q < s.producers.length) ∧
    (∀ p, p < s.producers.length → ((s.producer p).phase = .xfer ↔ s.session.lockOwner = some p)) ∧
    (∀ p, p < s.producers.length → (s.producer p).phase ≠ .idle → s.session.initialized = true) ∧
    ∀ p, p < s.producers.length → producerCheck s.cfg s.session.rxCap (s.producer p) = true)

theorem inv_of_check {s : State} (h : check s = true) : s.Inv := by
  obtain ⟨h1, h2, h3, h4, h5, h6, h7, h8, h9, h10, h11⟩ := of_decide_eq_true h
  refine ⟨h1, h2, h3, h4, h5, h6, h7, fun q hq => h8 q hq, h9, h10, fun p hp => ?_⟩
  have hp' := h11 p hp
  simp only [producerCheck, Bool.and_eq_true, decide_eq_true_eq] at hp'
  obtain ⟨⟨⟨a, b, c, d, e, f, g⟩, i, iv, j, k, l⟩, m, n, o, q⟩ := hp'
  exact ⟨a, b, c, d, e, f, g, i, iv, j, k, l, m, n, o, q⟩

theorem next_of_after {o : Host.Outcome State Fault Refusal} {f : State → Bool} (h : after o f = true) :
    ∃ t, o = .next t ∧ f t = true := by
  cases o with
  | next t => exact ⟨t, rfl, h⟩
  | fault r => cases h
  | refused r => cases h

/-! ## Witnesses: each statement's hypotheses can be met -/

/-- An idle block with a request on port 0 that is scheduled next. -/
def requested (words : List Byte) (moves : List Move) (answers : List XferAnswer) : State :=
  block (ref 16 32) (opened 0) { Producer.reset with port := [⟨words, []⟩] } moves answers

/-- A block without a capture unit, with a request on port 0. -/
def noCapture (words : List Byte) : State :=
  { requested words [.run 0] [] with cfg := { ref 16 32 with hasCapture := false } }

theorem witness_RequestDecodesBack :
    (Instr.send true 65535).wellFormed 16 = true ∧ (Instr.fromRGBA 0 0 0 ⟨-1, 1⟩).wellFormed 16 = true := by decide

theorem witness_HeaderFrameDecodesBack :
    (ref 16 32).codes.distinct = true ∧ isWireCommand (.displayInit 0 0 0 0 0 0) = true ∧
      isWireCommand .miscStat = true := by decide

theorem witness_StepRunsDecodedRequest :
    let s := requested [3] [.run 0] []
    s.nextMove = .run 0 ∧ 0 < s.producers.length ∧ (s.producer 0).phase = .idle ∧
      (s.producer 0).port = [⟨[3], []⟩] ∧ decodePort s.cfg.hasCapture [3] = .ok .initializeSession ∧
      Instr.initializeSession.wellFormed s.cfg.sizeBits = true := by decide

/-- The ends of both ranges of selectors, each on a block where it names no operation. -/
theorem witness_UnassignedSelectorAnswers :
    ∀ x ∈ [(requested [0x12] [.run 0] [], (0x12 : Byte)), (requested [0x1F] [.run 0] [], 0x1F), (noCapture [5], 5),
        (noCapture [7], 7)],
      x.1.nextMove = .run 0 ∧ 0 < x.1.producers.length ∧ (x.1.producer 0).phase = .idle ∧
        (x.1.producer 0).port = [⟨[x.2], []⟩] ∧
        ((18 ≤ x.2.toNat ∧ x.2.toNat < 32) ∨ (x.1.cfg.hasCapture = false ∧ 5 ≤ x.2.toNat ∧ x.2.toNat ≤ 7)) := by
  decide

theorem witness_IdlePortWithoutRequestWaits :
    let s := block (ref 16 32) (opened 0) Producer.reset [.run 1] []
    s.nextMove = .run 1 ∧ 1 < s.producers.length ∧ (s.producer 1).phase = .idle ∧ (s.producer 1).port = [] := by decide

theorem witness_ColorOperationsOnlyAnswer :
    opsel (.fromRGB 0 0 0) ≤ 0x02 ∧ opsel (.fromHSV 0 0 0) ≤ 0x02 := by decide

theorem witness_FromRgbaRoundsExactProduct : Alpha.wellFormed ⟨-1, 2⟩ = true := by decide

theorem witness_FromRgbaUnitZeroNegative :
    (∃ a : Alpha, a.wellFormed = true ∧ a.num = (a.den : ℤ)) ∧ (∃ a : Alpha, a.wellFormed = true ∧ a.num = 0) ∧
      ∃ a : Alpha, a.wellFormed = true ∧ a.num < 0 :=
  ⟨⟨⟨1, 1⟩, by decide⟩, ⟨⟨0, 1⟩, by decide⟩, ⟨⟨-1, 1⟩, by decide⟩⟩

/-- A saturation other than zero, and the last and first hue of neighbouring regions (VH3 to VH13). -/
theorem witness_DefaultHsvByRegion :
    (ref 16 32).hsv = .standard ∧ (1 : Byte) ≠ 0 ∧
      ([42, 43, 85, 86, 128, 129, 171, 172, 214, 215, 255] : List Byte).map hueRegion =
        [0, 1, 1, 2, 2, 3, 3, 4, 4, 5, 5] := by decide

theorem witness_InitializeOpensMissingResources :
    let s := block (ref 16 32) Session.reset Producer.reset [] []
    2 ≤ s.env.opener.length ∧ (∀ a ∈ s.env.opener, a = .ok) ∧ s.env.allocator.head? = some true := by decide

/-- A block before `initialize` whose opener and allocator answer as given. -/
def answering (opener : List OpenAnswer) (allocator : List Bool) : State :=
  let s := block (ref 16 32) Session.reset Producer.reset [] []
  { s with env := { s.env with opener := opener, allocator := allocator } }

/-- The same with these resources already there. -/
def partly (bus device : Bool) (opener : List OpenAnswer) (allocator : List Bool) : State :=
  let s := answering opener allocator
  { s with session := { s.session with busValid := bus, devValid := device } }

/-- Each failure from each set of resources already there. -/
theorem witness_InitializeStopsAtFirstFailure :
    ((partly false false [.fail 5] []).session.busValid = false ∧
      (partly false false [.fail 5] []).env.opener = [.fail 5]) ∧
    (∀ x ∈ [(false, [OpenAnswer.ok]), (true, [])], let s := partly x.1 false (x.2 ++ [.fail 6]) []
      s.session.devValid = false ∧
        s.env.opener = (if s.session.busValid then [] else [OpenAnswer.ok]) ++ [.fail 6]) ∧
    ∀ x ∈ [(false, false, [OpenAnswer.ok, .ok]), (true, false, [.ok]), (false, true, [.ok]), (true, true, [])],
      let s := partly x.1 x.2.1 x.2.2 [false]
      s.session.lockValid = false ∧ s.env.allocator.head? = some false ∧
        s.env.opener = (if s.session.busValid then [] else [OpenAnswer.ok]) ++
          (if s.session.devValid then [] else [.ok]) ++ [] := by decide

theorem witness_DeinitializeReleasesWhatExists : ∀ P ∈ (idle 8).producers, P.phase = .idle := by decide

theorem witness_SessionManagementRefusedInUse :
    (∃ P ∈ (block (ref 2 32) (locked 0) (sending 0 4) [] []).producers, P.phase ≠ .idle) ∧
      (ref 2 32).hasCapture = true := by decide

theorem witness_SendSetsUpFrame :
    (idle 0).session.initialized = true ∧ ((0 : Nat) = 0 ∨ false = true) ∧ ((1 : Nat) = 0 ∨ true = true) := by decide

theorem witness_SendPrechecksInOrder :
    (answering [] []).session.initialized = false ∧ (idle 0).session.initialized = true ∧ 0 < 1 := by decide

theorem witness_ZeroCapacityClearsCapture :
    (idle 8).cfg.hasCapture = true ∧ ∀ P ∈ (idle 8).producers, P.phase = .idle := by decide

theorem witness_CapacityChangeAllocatesThenSwaps :
    ∀ granted ∈ [true, false], let s := answering [] [granted]
      s.cfg.hasCapture = true ∧ (∀ P ∈ s.producers, P.phase = .idle) ∧ 0 < 1 ∧ s.env.allocator = [granted] := by decide

theorem witness_ReadIntoSetsUpReceive :
    (idle 8).cfg.hasCapture = true ∧ (idle 8).session.initialized = true ∧ 0 < (idle 8).session.rxCap ∧
      8 ≤ (idle 8).session.rxCap ∧ 0 ≤ (idle 8).session.rxCap := by decide

theorem witness_ReadIntoChecksInOrder :
    (answering [] []).session.initialized = false ∧ (idle 0).session.rxCap = 0 ∧
      (idle 8).session.initialized = true ∧ (idle 8).session.rxCap < 9 ∧ (idle 8).cfg.hasCapture = true := by decide

/-- A capture buffer of one byte, stale. -/
def staleBlock : State := { idle 1 with session := { opened 1 with rxStale := true } }

/-- No buffer; a stale one; a frame moving; a fresh one. -/
theorem witness_LastReceivedShowsBuffer :
    ((idle 0).cfg.hasCapture = true ∧ (idle 0).session.rxCap = 0) ∧
      (staleBlock.cfg.hasCapture = true ∧ 0 < staleBlock.session.rxCap ∧ staleBlock.session.rxStale = true) ∧
      (0 < (block (ref 2 32) (locked 1) (sending 0 4) [] []).session.rxCap ∧
        ∃ P ∈ (block (ref 2 32) (locked 1) (sending 0 4) [] []).producers, P.phase = .xfer) ∧
      (0 < (idle 1).session.rxCap ∧ (idle 1).session.rxStale = false ∧
        ¬ ∃ P ∈ (idle 1).producers, P.phase = .xfer) := by decide

theorem witness_DisplayCommandsStageHeader :
    (idle 0).session.initialized = true ∧ (3 : Byte).toNat < (idle 0).cfg.fbCount := by decide

theorem witness_ClearAndBlitStageHeader :
    (idle 0).session.initialized = true ∧ (0 : Byte).toNat < (idle 0).cfg.fbCount ∧
      (3 : Byte).toNat < (idle 0).cfg.fbCount := by decide

theorem witness_DrawStagesHeaderAndPayload :
    let s := block (ref 4096 16) (opened 0) Producer.reset [] []
    s.session.initialized = true ∧ (3 : Byte).toNat < s.cfg.fbCount ∧
      (255 : U16).toNat * (257 : U16).toNat < 2 ^ s.cfg.sizeBits ∧
      (0 : U16).toNat * (700 : U16).toNat < 2 ^ s.cfg.sizeBits := by decide

theorem witness_QueriesStageHeader : (idle 0).session.initialized = true := by decide

theorem witness_SelfTestBuildsPattern :
    let s := block (ref 4 32) (opened 0) Producer.reset [] []
    s.session.initialized = true ∧ s.cfg.wf = true := by decide

theorem witness_IndexOutOfRangeRejected : (idle 0).cfg.fbCount ≤ (4 : Byte).toNat := by decide

theorem witness_AreaCheckIsExact :
    2 ^ 16 ≤ (256 : U16).toNat * (256 : U16).toNat ∧ (255 : U16).toNat * (257 : U16).toNat < 2 ^ 16 := by decide

theorem witness_DrawOverflowRejected :
    (3 : Byte).toNat < (ref 4096 16).fbCount ∧
      2 ^ (ref 4096 16).sizeBits ≤ (256 : U16).toNat * (256 : U16).toNat ∧ 32 ≤ (ref 4096 32).sizeBits := by decide

/-- A block before `initialize` with a 16-bit size type: operands in range, an index one too large, an area
one too large. -/
theorem witness_TransferOpsNeedSession :
    let s := block (ref 4 16) Session.reset Producer.reset [] []
    s.session.initialized = false ∧ s.cfg.hasCapture = true ∧ s.cur < s.producers.length ∧
      (∀ i ∈ [Instr.send true 1, .readInto 1, .displayDeinit, .selfTest 0, .displayFlip 3],
        isTransferOp i = true ∧ (∀ fb ∈ indexOperands i, fb.toNat < s.cfg.fbCount) ∧
          pixelArea i < 2 ^ s.cfg.sizeBits) ∧
      (isTransferOp (.displayFlip 4) = true ∧
        ¬ ∀ fb ∈ indexOperands (.displayFlip 4), fb.toNat < s.cfg.fbCount) ∧
      (isTransferOp (.framebufferDraw 3 0 0 256 256 true) = true ∧
        (∀ fb ∈ indexOperands (.framebufferDraw 3 0 0 256 256 true), fb.toNat < s.cfg.fbCount) ∧
        ¬ pixelArea (.framebufferDraw 3 0 0 256 256 true) < 2 ^ s.cfg.sizeBits) := by decide

theorem witness_IssueResultsAsTabled :
    (idle 0).cur < (idle 0).producers.length ∧ (idle 0).cfg.hasCapture = true ∧
      ∃ t, exec (.displayFlip 4) (idle 0) = .next t ∧ ended .indexOutOfRange .nothing t = true :=
  ⟨by decide, by decide, next_of_after (by decide)⟩

/-- The lock free, with one byte and with none to send; the lock held by the other producer. -/
theorem witness_AcquireTakesFreeLock :
    (∀ n ∈ [0, 1], let s := block (ref 2 32) (opened 0) { sending 0 n with phase := .acq } [.run 0] []
      s.nextMove = .run 0 ∧ 0 < s.producers.length ∧ (s.producer 0).phase = .acq ∧ s.session.lockOwner = none ∧
        (s.producer 0).total = n) ∧
      let s := block (ref 2 32) { opened 0 with lockOwner := some 1 } { sending 0 1 with phase := .acq } [.run 0] []
      s.nextMove = .run 0 ∧ 0 < s.producers.length ∧ (s.producer 0).phase = .acq ∧ s.session.lockOwner = some 1 ∧
        ∃ t, step s = .next t ∧ ended .timeout .nothing t = true :=
  ⟨by decide, by decide, by decide, by decide, by decide, next_of_after (by decide)⟩

theorem witness_ZeroLengthSendMakesNoTransfer :
    let s := block (ref 2 32) (opened 0) { sending 0 0 with phase := .acq } [.run 0] []
    s.nextMove = .run 0 ∧ 0 < s.producers.length ∧ (s.producer 0).phase = .acq ∧ s.session.lockOwner = none ∧
      (s.producer 0).dir = .send ∧ (s.producer 0).total = 0 ∧ (s.producer 0).payPending = false := by decide

theorem witness_WaiterTimesOut :
    let s := block (ref 2 32) { opened 0 with lockOwner := some 1 } { sending 0 1 with phase := .acq } [.run 0] []
    s.nextMove = .run 0 ∧ 0 < s.producers.length ∧ (s.producer 0).phase = .acq ∧ s.session.lockOwner = some 1 ∧
      1 ≠ 0 := by decide

/-- The chunk before the last, with and without a capture buffer: one byte more than `MAX_CHUNK` is left. -/
theorem witness_MiddleChunkAdvances :
    let s := fun n => block (ref 2 32) (locked n) (sending 0 3) [.run 0] [.ok [1, 2]]
    (∀ n ∈ [0, 1], (s n).nextMove = .run 0 ∧ 0 < (s n).producers.length ∧ ((s n).producer 0).phase = .xfer ∧
      (s n).session.lockOwner = some 0 ∧ ((s n).producer 0).dir = .send ∧ 0 < (s n).cfg.maxChunk ∧
      ((s n).producer 0).cursor + (s n).cfg.maxChunk < ((s n).producer 0).total ∧
      (s n).env.channel = [.ok [1, 2]] ∧ ([1, 2] : List Byte).length = (s n).cfg.maxChunk) := by decide

/-- Exactly `MAX_CHUNK` bytes are left. -/
theorem witness_LastChunkReleasesLock :
    let s := block (ref 2 32) (locked 0) (sending 2 4) [.run 0] [.ok [1, 2]]
    s.nextMove = .run 0 ∧ 0 < s.producers.length ∧ (s.producer 0).phase = .xfer ∧ s.session.lockOwner = some 0 ∧
      (s.producer 0).dir = .send ∧ (s.producer 0).payPending = false ∧ s.session.rxCap = 0 ∧
      (s.producer 0).cursor < (s.producer 0).total ∧
      (s.producer 0).total ≤ (s.producer 0).cursor + s.cfg.maxChunk ∧ s.env.channel = [.ok [1, 2]] := by decide

/-- A draw's header frame of eleven bytes under way, three payload bytes to follow. -/
def drawing (valid : Bool) : Producer :=
  { Producer.reset with
    phase := .xfer, total := 11, hdrLen := 11, payPending := true, payTotal := 3, payValid := valid
    op := .framebufferDraw 0 0 0 1 1 valid }

/-- With and without a payload source, with and without a capture buffer. -/
theorem witness_PayloadFrameFollowsHeader :
    ∀ x ∈ [(true, 0), (false, 0), (true, 3), (false, 3)],
      let rx : List Byte := List.replicate 11 7
      let s := block (ref 11 32) (locked x.2) (drawing x.1) [.run 0] [.ok rx]
      s.nextMove = .run 0 ∧ 0 < s.producers.length ∧ (s.producer 0).phase = .xfer ∧
      s.session.lockOwner = some 0 ∧ (s.producer 0).dir = .send ∧ (s.producer 0).payPending = true ∧
      0 < (s.producer 0).payTotal ∧ s.session.initialized = true ∧
      (s.producer 0).cursor < (s.producer 0).total ∧
      (s.producer 0).total ≤ (s.producer 0).cursor + s.cfg.maxChunk ∧ s.env.channel = [.ok rx] ∧
      s.session.rxBuf.length = s.session.rxCap ∧ rx.length = (s.producer 0).total - (s.producer 0).cursor ∧
      s.session.rxCap = x.2 ∧ (s.producer 0).payValid = x.1 := by decide

theorem witness_FailedChunkEndsOperation :
    let s := block (ref 2 32) (locked 1) (sending 3 4) [.run 0] [.fail 7]
    s.nextMove = .run 0 ∧ 0 < s.producers.length ∧ (s.producer 0).phase = .xfer ∧ s.session.lockOwner = some 0 ∧
      (s.producer 0).cursor < (s.producer 0).total ∧ 0 < s.cfg.maxChunk ∧ s.env.channel = [.fail 7] ∧
      0 < s.session.rxCap := by decide

/-- Three bytes left at `MAX_CHUNK = 2`: two transfers. -/
theorem witness_FrameMovesWhole :
    let s := block (ref 2 32) (locked 0) (sending 1 4) [.run 0, .run 0] [.ok [1, 2], .ok [3]]
    s.Inv ∧ 0 < s.producers.length ∧ (s.producer 0).phase = .xfer ∧ (s.producer 0).dir = .send ∧
      (s.producer 0).payPending = false ∧
      2 = ceilDiv ((s.producer 0).total - (s.producer 0).cursor) s.cfg.maxChunk ∧
      s.env.agenda = List.replicate 2 (.run 0) ++ [] ∧
      s.env.channel = ([[1, 2], [3]] : List (List Byte)).map .ok ++ [] :=
  ⟨inv_of_check (by decide), by decide⟩

theorem witness_CaptureHoldsLastReturnedBytes :
    let s := block (ref 2 32) (locked 3) (sending 0 4) [.run 0, .run 0] [.ok [1, 2], .ok [3, 4]]
    s.Inv ∧ 0 < s.producers.length ∧ (s.producer 0).phase = .xfer ∧ (s.producer 0).dir = .send ∧
      (s.producer 0).payPending = false ∧ (s.producer 0).cursor = 0 ∧ (s.producer 0).win = [] ∧
      0 < s.session.rxCap ∧ 2 = ceilDiv (s.producer 0).total s.cfg.maxChunk ∧
      s.env.agenda = List.replicate 2 (.run 0) ++ [] ∧
      s.env.channel = ([[1, 2], [3, 4]] : List (List Byte)).map .ok ++ [] :=
  ⟨inv_of_check (by decide), by decide⟩

/-- A receive of three bytes at `MAX_CHUNK = 2`: two transfers. -/
theorem witness_ReceiveCommitsLength :
    let s := block (ref 2 32) (locked 8) { sending 0 3 with dir := .recv } [.run 0, .run 0] [.ok [1, 2], .ok [3]]
    s.Inv ∧ 0 < s.producers.length ∧ (s.producer 0).phase = .xfer ∧ (s.producer 0).dir = .recv ∧
      2 = ceilDiv ((s.producer 0).total - (s.producer 0).cursor) s.cfg.maxChunk ∧
      s.env.agenda = List.replicate 2 (.run 0) ++ [] ∧
      s.env.channel = ([[1, 2], [3]] : List (List Byte)).map .ok ++ [] :=
  ⟨inv_of_check (by decide), by decide⟩

/-- One byte more than `MAX_CHUNK` is left. -/
theorem witness_MiddleReceiveChunkStores :
    let s := block (ref 2 32) (locked 3) { sending 0 3 with dir := .recv } [.run 0] [.ok [1, 2]]
    s.nextMove = .run 0 ∧ 0 < s.producers.length ∧ (s.producer 0).phase = .xfer ∧
      s.session.lockOwner = some 0 ∧ (s.producer 0).dir = .recv ∧ 0 < s.cfg.maxChunk ∧
      (s.producer 0).cursor + s.cfg.maxChunk < (s.producer 0).total ∧ s.env.channel = [.ok [1, 2]] ∧
      ([1, 2] : List Byte).length = s.cfg.maxChunk := by decide

theorem witness_ZeroLengthReadRecordsNothing :
    let s := block (ref 2 32) (opened 8) { sending 0 0 with phase := .acq, dir := .recv } [.run 0] []
    s.nextMove = .run 0 ∧ 0 < s.producers.length ∧ (s.producer 0).phase = .acq ∧ s.session.lockOwner = none ∧
      (s.producer 0).dir = .recv ∧ (s.producer 0).total = 0 := by decide

/-- A draw with a payload, a draw of no pixels, a query. -/
theorem witness_WireStreamReadsBack :
    (ref 16 32).codes.distinct = true ∧
      ∀ m ∈ [(⟨.framebufferDraw 0 1 2 1 1 true, [1, 2, 3]⟩ : WireMessage),
          ⟨.framebufferDraw 0 0 0 0 7 false, []⟩, ⟨.miscStat, []⟩],
        isWireCommand m.command = true ∧ m.payload.length = payloadBytes m.command := by decide

theorem witness_HeaderOnlyCommandReachesWire :
    let s := requested [0x0B, 3] [.run 0, .run 0, .run 0] [.ok []]
    s.Inv ∧ 0 < s.producers.length ∧ (s.producer 0).phase = .idle ∧ s.session.initialized = true ∧
      s.session.lockOwner = none ∧ s.session.rxCap = 0 ∧ 16 ≤ s.cfg.maxChunk ∧
      (s.producer 0).port = [⟨[0x0B, 3], []⟩] ∧ decodePort s.cfg.hasCapture [0x0B, 3] = .ok (.displayFlip 3) ∧
      (3 : Byte).toNat < s.cfg.fbCount ∧ s.env.agenda = [.run 0, .run 0, .run 0] ∧ s.env.channel = [.ok []] :=
  ⟨inv_of_check (by decide), by decide⟩

/-- A frame of four bytes of which none has moved, `MAX_CHUNK = 2`, a capture buffer of three bytes. -/
def midFrame : State := block (ref 2 32) (locked 3) (sending 0 4) [.run 0] [.ok [1, 2]]

/-- The same frame with its last chunk to come, no capture buffer. -/
def lastChunk : State := block (ref 2 32) (locked 0) (sending 2 4) [.run 0] [.ok [1, 2]]

theorem midFrame_inv : midFrame.Inv := inv_of_check (by decide)

theorem lastChunk_inv : lastChunk.Inv := inv_of_check (by decide)

theorem midFrame_steps : ∃ t, step midFrame = .next t ∧ (t.trace.length == 1) = true :=
  next_of_after (f := fun t => t.trace.length == 1) (by decide)

theorem lastChunk_steps : ∃ t, step lastChunk = .next t ∧ ended .ok .nothing t = true := next_of_after (by decide)

theorem witness_StepKeepsInvariant : midFrame.Inv ∧ ∃ t, step midFrame = .next t ∧ (t.trace.length == 1) = true :=
  ⟨midFrame_inv, midFrame_steps⟩

theorem witness_NoStepFaults : midFrame.Inv := midFrame_inv

theorem witness_PhasesMoveAsTabled :
    lastChunk.Inv ∧ lastChunk.nextMove = .run 0 ∧ ∃ t, step lastChunk = .next t ∧ ended .ok .nothing t = true :=
  ⟨lastChunk_inv, by decide, lastChunk_steps⟩

theorem witness_OnlyLockOwnerTransfers :
    midFrame.Inv ∧ midFrame.nextMove = .run 0 ∧ ∃ t, step midFrame = .next t ∧ (t.trace.length == 1) = true :=
  ⟨midFrame_inv, by decide, midFrame_steps⟩

theorem witness_EndedOperationHoldsNoLock :
    lastChunk.Inv ∧ 0 < lastChunk.producers.length ∧ ∃ t, step lastChunk = .next t ∧ ended .ok .nothing t = true :=
  ⟨lastChunk_inv, by decide, lastChunk_steps⟩

theorem witness_ConfigurationNeverChanges : ∃ t, step midFrame = .next t ∧ (t.trace.length == 1) = true :=
  midFrame_steps

theorem witness_TransferStepsKeepSources :
    midFrame.nextMove = .run 0 ∧ (midFrame.producer 0).phase ≠ .idle ∧
      ∃ t, step midFrame = .next t ∧ (t.trace.length == 1) = true :=
  ⟨by decide, by decide, midFrame_steps⟩

theorem witness_ResetInputAbandonsOperations :
    (block (ref 2 32) (locked 0) (sending 0 4) [.reset] []).nextMove = .reset := by decide

/-- One producer, its frame under way. -/
theorem witness_LoneProducerNeverTimesOut :
    let s := { block { ref 2 32 with nProd := 1 } (locked 0) (sending 2 4) [.run 0] [.ok [1, 2]] with
      producers := [sending 2 4] }
    s.Inv ∧ s.cfg.nProd = 1 ∧ (s.producer 0).result ≠ .timeout ∧
      ∃ t, step s = .next t ∧ ended .ok .nothing t = true :=
  ⟨inv_of_check (by decide), by decide, by decide, next_of_after (by decide)⟩

end Sys2Proof.Tests
end

section
/-! SUPPORT. What the issue step of an operation can do: one inversion lemma for `exec`, and what the
operations and the steps of one producer leave alone. -/

namespace Sys2Proof.Machine

/-! ## What an issue step can do -/

/-- `u` is `s`, or `s` with `pay_valid` latched from a draw (R30, log 27). -/
def State.Latched (s u : State) : Prop := u = s ∨ ∃ valid, u = s.latchPayValid s.cur valid

/-- Everything the issue step of a well-formed operation can do when it answers a next state (R125). -/
inductive IssuesTo (s t : State) : Prop where
  /-- The operation ends at once, with a result that carries no device code. -/
  | ends (u : State) (latched : s.Latched u) (r : Result) (v : Value) (code : devCode r = none)
      (next : t = u.finish s.cur r v)
  /-- The missing resources are opened: R121. -/
  | opens (next : t = State.reply s.cur s.openSession)
  /-- A block at rest closes its session: R122. -/
  | closes (quiet : s.inUse = false)
      (next : t = ((s.releaseDevice).releaseBus).destroyLock.returnOk s.cur .nothing)
  /-- A send begins: R123. -/
  | sends (valid : Bool) (length : Nat) (fits : length < 2 ^ s.cfg.sizeBits)
      (next : t = ((s.latchPayValid s.cur valid).setProducer s.cur fun P =>
        { P with payPending := false }).beginSend s.cur .pay valid length)
  /-- A block at rest with a capture unit changes its capacity: R133. -/
  | resizes (n : Nat) (unit : s.cfg.hasCapture = true) (quiet : s.inUse = false)
      (fits : n < 2 ^ s.cfg.sizeBits) (next : t = s.changeCapacity s.cur n)
  /-- A receive begins: R134. -/
  | receives (n : Nat) (next : t = s.beginReceive s.cur n)
  /-- The capture buffer is shown: R136. -/
  | shows (next : t = (s.drawn).returnOk s.cur (.received s.receivedBytes s.session.rxLen))
  /-- A header frame that fits its staging buffer begins, with `payLen` payload bytes to follow: R150. -/
  | encodes (u : State) (latched : s.Latched u) (frame : List Byte) (payLen : Nat)
      (staged : 0 < frame.length ∧ frame.length ≤ 16) (width : payLen < 2 ^ 34)
      (next : t = u.encoderOp s.cur frame payLen)
  /-- The self-test pattern is sent raw: R173. -/
  | tests (marker : Byte)
      (next : t = (s.setProducer s.cur fun P =>
        { P with pat := testPattern s.cfg marker, payPending := false }).beginSend
          s.cur .pat true (testPattern s.cfg marker).length)

/-- R80: the header frame of a wire command is not empty and fits the staging buffer. -/
theorem staged_of_wire {i : Instr} (h : Laws.HostEncoding.Statement i) (hw : isWireCommand i = true)
    (c : WireCodes) : 0 < (headerFrame c i).length ∧ (headerFrame c i).length ≤ 16 := by
  obtain ⟨_, _, hframe⟩ := h
  obtain ⟨hle, hne⟩ := hframe c
  exact ⟨List.length_pos_iff.mpr (hne.mp hw), hle⟩

/-- R163, R166: the payload of an accepted area has less than `2 ^ 34` bytes. -/
theorem payloadLength_lt {sizeBits area : Nat} {w h : U16} (ha : checkArea sizeBits w h = some area) :
    payloadLength area < 2 ^ 34 := by
  have hmod : area ≤ w.toNat * h.toNat := by
    unfold checkArea mulSize at ha
    dsimp only at ha
    split at ha
    · cases ha
    · cases ha
      exact Nat.mod_le _ _
  have hprod : w.toNat * h.toNat < 2 ^ 16 * 2 ^ 16 := Nat.mul_lt_mul'' w.isLt h.isLt
  unfold payloadLength
  omega

/-- A header-only command begins its frame if its indices pass their checks. -/
theorem issuesTo_of_check {s t : State} {i : Instr} {ok : Prop} [Decidable ok] (hi : Laws.HostEncoding.Statement i)
    (hw : isWireCommand i = true)
    (h : Host.Outcome.next (if ok then s.encoderOp s.cur (headerFrame s.cfg.codes i) 0
      else s.raise s.cur .indexOutOfRange) = (.next t : Host.Outcome State Fault Refusal)) : IssuesTo s t := by
  cases h
  split
  · exact .encodes s (.inl rfl) _ 0 (staged_of_wire hi hw _) (by decide) rfl
  · exact .ends s (.inl rfl) _ _ rfl rfl

open Laws in
/-- Everything the issue step of an operation can do, operation by operation (R96). -/
theorem exec_cases {i : Instr} {s t : State} (hw : i.wellFormed s.cfg.sizeBits = true)
    (h : exec i s = .next t) : IssuesTo s t := by
  cases i with
  | fromRGB r g b => cases h; exact .ends s (.inl rfl) _ _ rfl rfl
  | fromRGBA r g b alpha => cases h; exact .ends s (.inl rfl) _ _ rfl rfl
  | fromHSV hue sat val => cases h; exact .ends s (.inl rfl) _ _ rfl rfl
  | initializeSession =>
    cases h
    split
    · exact .ends s (.inl rfl) _ _ rfl rfl
    · exact .opens rfl
  | send payValid length => cases h; exact .sends payValid length (of_decide_eq_true hw) rfl
  | setReceiveCapacity n =>
    change execSetReceiveCapacity n s = _ at h
    unfold execSetReceiveCapacity at h
    split at h
    · cases h; exact .ends s (.inl rfl) _ _ rfl rfl
    · next hunit =>
      split at h
      · cases h
      · next hquiet =>
        cases h
        exact .resizes n (by simpa using hunit) (by simpa using hquiet) (of_decide_eq_true hw) rfl
  | readInto n =>
    cases h
    split
    · exact .ends s (.inl rfl) _ _ rfl rfl
    · exact .receives n rfl
  | lastReceived =>
    cases h
    split
    · exact .ends s (.inl rfl) _ _ rfl rfl
    · exact .shows rfl
  | deinitializeSession =>
    change execDeinitializeSession s = _ at h
    unfold execDeinitializeSession at h
    split at h
    · cases h
    · next hquiet => cases h; exact .closes (by simpa using hquiet) rfl
  | displayInit pin0 pin1 pin2 pin3 width height =>
    cases h
    exact .encodes s (.inl rfl) _ 0 (staged_of_wire (HostEncoding.displayInit ..) rfl _) (by decide) rfl
  | displayDeinit =>
    cases h
    exact .encodes s (.inl rfl) _ 0 (staged_of_wire HostEncoding.displayDeinit rfl _) (by decide) rfl
  | displayFlip fb => exact issuesTo_of_check (HostEncoding.displayFlip fb) rfl h
  | framebufferClear fb color => exact issuesTo_of_check (HostEncoding.framebufferClear fb color) rfl h
  | framebufferBlit srcFb dstFb srcX srcY dstX dstY w h' =>
    cases h
    split
    · exact .ends s (.inl rfl) _ _ rfl rfl
    · split
      · exact .ends s (.inl rfl) _ _ rfl rfl
      · exact .encodes s (.inl rfl) _ 0 (staged_of_wire (HostEncoding.framebufferBlit ..) rfl _) (by decide) rfl
  | framebufferDraw fb x y w h' payValid =>
    have latched : s.Latched (s.latchPayValid s.cur payValid) := .inr ⟨payValid, rfl⟩
    cases h
    split
    · exact .ends _ latched _ _ rfl rfl
    · split
      · exact .ends _ latched _ _ rfl rfl
      · next area harea =>
        exact .encodes _ latched _ _ (staged_of_wire (HostEncoding.framebufferDraw fb x y w h' payValid) rfl _)
          (payloadLength_lt harea) rfl
  | miscHwinfo =>
    cases h
    exact .encodes s (.inl rfl) _ 0 (staged_of_wire HostEncoding.miscHwinfo rfl _) (by decide) rfl
  | miscStat =>
    cases h
    exact .encodes s (.inl rfl) _ 0 (staged_of_wire HostEncoding.miscStat rfl _) (by decide) rfl
  | selfTest marker => cases h; exact .tests marker rfl

/-! ## What the operations and the steps of one producer leave alone -/

/-- `t` is `s` but for the session, the trace and the environment's answers and draws. -/
structure State.SameBut (s t : State) : Prop where
  cfg : t.cfg = s.cfg
  cur : t.cur = s.cur
  agenda : t.env.agenda = s.env.agenda
  producers : t.producers = s.producers

theorem State.SameBut.trans {s t u : State} (h : s.SameBut t) (k : t.SameBut u) : s.SameBut u :=
  ⟨k.cfg.trans h.cfg, k.cur.trans h.cur, k.agenda.trans h.agenda, k.producers.trans h.producers⟩

theorem State.SameBut.localTo {s t : State} (h : s.SameBut t) (p : Nat) : s.LocalTo p t :=
  .of_producers_eq p h.cfg h.cur h.agenda h.producers

theorem acquireBus_sameBut (s : State) : s.SameBut s.acquireBus.1 := by
  unfold State.acquireBus
  split
  · exact ⟨rfl, rfl, rfl, rfl⟩
  · split <;> exact ⟨rfl, rfl, rfl, rfl⟩

theorem acquireDevice_sameBut (s : State) : s.SameBut s.acquireDevice.1 := by
  unfold State.acquireDevice
  split
  · exact ⟨rfl, rfl, rfl, rfl⟩
  · split <;> exact ⟨rfl, rfl, rfl, rfl⟩

theorem acquireLock_sameBut (s : State) : s.SameBut s.acquireLock.1 := by
  unfold State.acquireLock
  split
  · exact ⟨rfl, rfl, rfl, rfl⟩
  · split <;> exact ⟨rfl, rfl, rfl, rfl⟩

theorem andThen_sameBut {s : State} {first : State × Option Result} {next : State → State × Option Result}
    (h : s.SameBut first.1) (k : ∀ t : State, t.SameBut (next t).1) : s.SameBut (andThen first next).1 := by
  obtain ⟨t, _ | e⟩ := first
  · exact h.trans (k t)
  · exact h

theorem openSession_sameBut (s : State) : s.SameBut s.openSession.1 :=
  andThen_sameBut (andThen_sameBut (acquireBus_sameBut s) acquireDevice_sameBut) acquireLock_sameBut

theorem releaseDevice_sameBut (s : State) : s.SameBut s.releaseDevice := by
  unfold State.releaseDevice; split <;> exact ⟨rfl, rfl, rfl, rfl⟩

theorem releaseBus_sameBut (s : State) : s.SameBut s.releaseBus := by
  unfold State.releaseBus; split <;> exact ⟨rfl, rfl, rfl, rfl⟩

theorem destroyLock_sameBut (s : State) : s.SameBut s.destroyLock := by
  unfold State.destroyLock; split <;> exact ⟨rfl, rfl, rfl, rfl⟩

theorem closeSession_sameBut (s : State) : s.SameBut ((s.releaseDevice).releaseBus).destroyLock :=
  ((releaseDevice_sameBut s).trans (releaseBus_sameBut _)).trans (destroyLock_sameBut _)

theorem freeCapture_sameBut (s : State) : s.SameBut s.freeCapture := by
  unfold State.freeCapture; split <;> exact ⟨rfl, rfl, rfl, rfl⟩

theorem installCapture_sameBut (s : State) (n : Nat) : s.SameBut (s.installCapture n) := ⟨rfl, rfl, rfl, rfl⟩

theorem reply_localTo {s : State} {p : Nat} {r : State × Option Result} (h : s.LocalTo p r.1) :
    s.LocalTo p (State.reply p r) := by
  obtain ⟨t, _ | e⟩ := r
  · exact h.trans (returnOk_localTo t p _)
  · exact h.trans (raise_localTo t p e)

theorem changeCapacity_localTo (s : State) (p n : Nat) : s.LocalTo p (s.changeCapacity p n) := by
  unfold State.changeCapacity
  split
  · exact (((freeCapture_sameBut s).trans (installCapture_sameBut _ 0)).localTo p).trans (returnOk_localTo _ p _)
  · split
    · exact ((((allocatorTaken_localTo s p).trans (emit_localTo _ p _)).trans
        ((freeCapture_sameBut _).localTo p)).trans ((installCapture_sameBut _ n).localTo p)).trans
          (returnOk_localTo _ p _)
    · exact ((allocatorTaken_localTo s p).trans (emit_localTo _ p _)).trans (raise_localTo _ p _)

theorem State.Latched.localTo {s u : State} (h : s.Latched u) : s.LocalTo s.cur u := by
  obtain rfl | ⟨valid, rfl⟩ := h
  · exact .refl _ _
  · exact setProducer_localTo s s.cur _

/-- An issue step touches the context of no other producer, nor the configuration. -/
theorem IssuesTo.localTo {s t : State} (h : IssuesTo s t) : s.LocalTo s.cur t := by
  cases h with
  | ends u latched r v _ next => exact next ▸ latched.localTo.trans (finish_localTo u _ r v)
  | opens next => exact next ▸ reply_localTo ((openSession_sameBut s).localTo _)
  | closes _ next => exact next ▸ ((closeSession_sameBut s).localTo _).trans (returnOk_localTo _ _ _)
  | sends valid length _ next =>
    exact next ▸ ((setProducer_localTo s _ _).trans (setProducer_localTo _ _ _)).trans (beginSend_localTo _ _ _ _ _)
  | resizes n _ _ _ next => exact next ▸ changeCapacity_localTo s _ n
  | receives n next => exact next ▸ beginReceive_localTo s _ n
  | shows next => exact next ▸ (drawn_localTo s _).trans (returnOk_localTo _ _ _)
  | encodes u latched frame payLen _ _ next => exact next ▸ latched.localTo.trans (encoderOp_localTo u _ frame payLen)
  | tests marker next => exact next ▸ (setProducer_localTo s _ _).trans (beginSend_localTo _ _ _ _ _)

/-- A step of producer `p`, scheduled at its own port, is local to `p`. -/
theorem StepsTo.localTo {s t : State} {p : Nat} (hcur : s.cur = p) (h : StepsTo s p t) : s.LocalTo p t := by
  cases h with
  | waits _ _ next => exact next ▸ .refl s p
  | issues req _ i _ _ _ fits next =>
    subst hcur
    exact (setProducer_localTo s s.cur _).trans (exec_cases (s := s.accept s.cur req i) fits next).localTo
  | rejects _ _ _ _ _ _ next => exact next ▸ (setProducer_localTo s p _).trans (raise_localTo _ p _)
  | acquires _ _ next => exact next ▸ acquireStep_localTo s p
  | timesOut _ _ _ _ next => exact next ▸ raise_localTo s p _
  | moves _ _ _ next => exact next ▸ transferChunk_localTo s p

/-- R27: no step writes the configuration. -/
theorem step_cfg {s t : State} (h : step s = .next t) : t.cfg = s.cfg := by
  obtain ⟨_, rfl⟩ | ⟨p, _, _, hstep⟩ := step_cases h
  · rfl
  · exact (hstep.localTo rfl).cfg

end Sys2Proof.Machine
end

section
/-! SUPPORT. The byte sources of a producer (`PAY`, `HDR`, `PAT`), its latched operation, the capacity and
the session's resources: no step of the sequencer writes them (R25, R52, R221). -/

namespace Sys2Proof.Machine

/-- What the frames of an operation are read from, and the operation (R30, R31, R32). -/
def Producer.sources (P : Producer) : Memory × List Byte × Nat × List Byte × Instr :=
  (P.pay, P.hdr, P.hdrLen, P.pat, P.op)

/-- From `s` to `t` producer `p` keeps its byte sources, and the session its capacity and resources. -/
structure State.KeepsSources (s : State) (p : Nat) (t : State) : Prop where
  sources : (t.producer p).sources = (s.producer p).sources
  rxCap : t.session.rxCap = s.session.rxCap
  opened : t.session.initialized = s.session.initialized

theorem State.KeepsSources.trans {s t u : State} {p : Nat} (h : s.KeepsSources p t) (k : t.KeepsSources p u) :
    s.KeepsSources p u :=
  ⟨k.sources.trans h.sources, k.rxCap.trans h.rxCap, k.opened.trans h.opened⟩

/-- An update of the session that resizes and opens nothing. -/
theorem State.KeepsSources.of_session {s t : State} (p : Nat) (hp : t.producers = s.producers)
    (hr : t.session.rxCap = s.session.rxCap) (ho : t.session.initialized = s.session.initialized) :
    s.KeepsSources p t :=
  ⟨by rw [producer_congr hp], hr, ho⟩

/-- An update of the producer's context that writes no source. -/
theorem setProducer_keepsSources (s : State) (p : Nat) {f : Producer → Producer}
    (hf : ∀ P, (f P).sources = P.sources) : s.KeepsSources p (s.setProducer p f) := by
  refine ⟨?_, rfl, rfl⟩
  by_cases hp : p < s.producers.length
  · rw [producer_setProducer_self s p f hp, hf]
  · have absent : s.producers[p]? = none := List.getElem?_eq_none (Nat.le_of_not_lt hp)
    simp [State.producer, List.getD_eq_getElem?_getD, absent]

theorem finish_keepsSources (s : State) (p : Nat) (r : Result) (v : Value) :
    s.KeepsSources p (s.finish p r v) :=
  setProducer_keepsSources s p fun _ => rfl

theorem beginSend_keepsSources (s : State) (p : Nat) (src : Src) (valid : Bool) (total : Nat) :
    s.KeepsSources p (s.beginSend p src valid total) := by
  rcases beginSend_cases s p src valid total with ⟨_, h⟩ | ⟨_, _, _, h⟩ | ⟨_, _, h⟩ <;> rw [h]
  · exact finish_keepsSources s p _ _
  · exact finish_keepsSources s p _ _
  · exact setProducer_keepsSources s p fun _ => rfl

theorem releaseLock_keepsSources (s : State) (p : Nat) : s.KeepsSources p s.releaseLock :=
  .of_session p rfl rfl rfl

theorem commitWindow_keepsSources (s : State) (p : Nat) : s.KeepsSources p (s.commitWindow p) := by
  unfold State.commitWindow
  refine .trans ?_ (setProducer_keepsSources _ p fun _ => rfl)
  exact .of_session p rfl rfl rfl

theorem commitReceive_keepsSources (s : State) (p : Nat) : s.KeepsSources p (s.commitReceive p) :=
  .of_session p rfl rfl rfl

theorem captured_keepsSources (s : State) (p : Nat) : s.KeepsSources p (s.captured p) := by
  unfold State.captured
  split
  · exact commitWindow_keepsSources s p
  · exact .of_session p rfl rfl rfl

theorem frameDone_keepsSources (s : State) (p : Nat) : s.KeepsSources p (s.frameDone p) := by
  have released := (captured_keepsSources s p).trans (releaseLock_keepsSources _ p)
  rcases hd : (s.producer p).dir with _ | _
  · rcases hp : (s.producer p).payPending with _ | _
    · rw [frameDone_send_last s p hd hp]
      exact released.trans (finish_keepsSources _ p _ _)
    · rw [frameDone_send_payload s p hd hp]
      refine .trans ?_ (beginSend_keepsSources _ p _ _ _)
      exact released.trans (setProducer_keepsSources _ p fun _ => rfl)
  · rw [frameDone_recv s p hd]
    exact ((commitReceive_keepsSources s p).trans (releaseLock_keepsSources _ p)).trans (finish_keepsSources _ p _ _)

theorem chunkFailed_keepsSources (s : State) (p code : Nat) : s.KeepsSources p (s.chunkFailed p code) := by
  unfold State.chunkFailed
  dsimp only
  refine .trans ?_ (finish_keepsSources _ p _ _)
  refine .trans ?_ (setProducer_keepsSources _ p fun _ => rfl)
  split <;> exact .of_session p rfl rfl rfl

theorem acquireStep_keepsSources (s : State) (p : Nat) : s.KeepsSources p (s.acquireStep p) := by
  have owned : s.KeepsSources p (s.setSession fun S => { S with lockOwner := some p }) := .of_session p rfl rfl rfl
  unfold State.acquireStep
  dsimp only
  split
  · exact owned.trans (frameDone_keepsSources _ p)
  · exact owned.trans (setProducer_keepsSources _ p fun _ => rfl)

theorem storeChunk_keepsSources (s : State) (p : Nat) (rx : List Byte) : s.KeepsSources p (s.storeChunk p rx) := by
  unfold State.storeChunk
  split
  · split
    · exact setProducer_keepsSources s p fun _ => rfl
    · exact .of_session p rfl rfl rfl
  · exact .of_session p rfl rfl rfl

theorem chunkDone_keepsSources (s : State) (p k : Nat) (rx : List Byte) :
    s.KeepsSources p (s.chunkDone p k rx) := by
  have advanced := (storeChunk_keepsSources s p rx).trans
    (setProducer_keepsSources _ p (f := fun P => { P with cursor := P.cursor + k }) fun _ => rfl)
  unfold State.chunkDone
  dsimp only
  split
  · exact advanced.trans (frameDone_keepsSources _ p)
  · exact advanced

theorem transferChunk_keepsSources (s : State) (p : Nat) : s.KeepsSources p (s.transferChunk p) := by
  have traced (e : Event) : s.KeepsSources p ((s.channelTaken).emit e) := .of_session p rfl rfl rfl
  unfold State.transferChunk
  dsimp only
  split
  · exact (traced _).trans (chunkDone_keepsSources _ p _ _)
  · exact (traced _).trans (chunkFailed_keepsSources _ p _)

/-- Every step of a producer in `ACQ` or `XFER` keeps its sources. -/
theorem StepsTo.keepsSources {s t : State} {p : Nat} (hactive : (s.producer p).phase ≠ .idle)
    (h : StepsTo s p t) : s.KeepsSources p t := by
  cases h with
  | waits phase _ _ => exact absurd phase hactive
  | issues _ _ _ phase _ _ _ _ => exact absurd phase hactive
  | rejects _ _ _ phase _ _ _ => exact absurd phase hactive
  | acquires _ _ next => exact next ▸ acquireStep_keepsSources s p
  | timesOut _ _ _ _ next => exact next ▸ finish_keepsSources s p _ _
  | moves _ _ _ next => exact next ▸ transferChunk_keepsSources s p

end Sys2Proof.Machine
end

section
/-! SUPPORT. R38's invariant cut along the steps. `Producer.Contents` is what it says of a context in every
phase, `Producer.Frame` what it says of the frame in progress, `State.InvBut` all it says of the block but
for one producer. The operations take that producer through two kinds of state in between: `State.Between`
frames, and `State.Holding` the lock. -/

namespace Sys2Proof.Machine

/-! ## Widths (R8, R29) -/

theorem lt_lenBits_of_lt_34 {c : Config} {n : Nat} (h : n < 2 ^ 34) : n < 2 ^ c.lenBits :=
  h.trans_le (Nat.pow_le_pow_right Nat.two_pos (Nat.le_max_left 34 c.sizeBits))

theorem lt_lenBits_of_lt_sizeBits {c : Config} {n : Nat} (h : n < 2 ^ c.sizeBits) : n < 2 ^ c.lenBits :=
  h.trans_le (Nat.pow_le_pow_right Nat.two_pos (Nat.le_max_right 34 c.sizeBits))

/-- A result without a device code fits any `ERR_BITS`. -/
theorem Result.fits_of_devCode_none {r : Result} (h : devCode r = none) (errBits : Nat) : r.fits errBits = true := by
  simp [Result.fits, h]

theorem Result.fits_transferFailed {errBits code : Nat} (h : code < 2 ^ errBits) :
    (Result.transferFailed code).fits errBits = true := decide_eq_true h

/-! ## One context -/

/-- What `Producer.Inv` says of a context whatever its phase. -/
structure Producer.Contents (c : Config) (P : Producer) : Prop where
  hdrBytes : P.hdr.length = 16
  hdrLen_le : P.hdrLen ≤ 16
  cursor_le : P.cursor ≤ P.total
  total_width : P.total < 2 ^ c.lenBits
  payTotal_width : P.payTotal < 2 ^ c.lenBits
  code_width : P.result.fits c.errBits = true
  pay_canonical : Memory.wf P.pay = true
  port_canonical : ∀ r ∈ P.port, Memory.wf r.pay = true

/-- What `Producer.Inv` says of the frame of an operation in progress, but for where its cursor stands. -/
structure Producer.Frame (rxCap : Nat) (P : Producer) : Prop where
  win_le : P.win.length ≤ rxCap
  win_send : P.win ≠ [] → P.dir = .send ∧ 0 < P.total
  recv_le : P.dir = .recv → P.total ≤ rxCap
  hdr_frame : P.dir = .send → P.src = .hdr → P.total = P.hdrLen
  pat_frame : P.dir = .send → P.src = .pat → P.total = P.pat.length
  pending_header : P.payPending = true → P.dir = .send ∧ P.src = .hdr ∧ 0 < P.total ∧ 0 < P.payTotal

section
variable {c : Config} {rxCap : Nat} {P : Producer}

theorem Producer.Inv.contents (h : P.Inv c rxCap) : P.Contents c :=
  ⟨h.hdrBytes, h.hdrLen_le, h.cursor_le, h.total_width, h.payTotal_width, h.code_width, h.pay_canonical,
    h.port_canonical⟩

/-- Only a moving frame has a window. -/
theorem Producer.Inv.win_eq_nil (h : P.Inv c rxCap) (hp : P.phase ≠ .xfer) : P.win = [] :=
  Classical.byContradiction fun hw => hp (h.win_live hw).1

theorem Producer.Inv.frame (h : P.Inv c rxCap) (hp : P.phase ≠ .idle) : P.Frame rxCap where
  win_le := h.win_le
  win_send hw := by
    obtain ⟨hx, hd⟩ := h.win_live hw
    exact ⟨hd, Nat.zero_lt_of_lt (h.cursor_lt hx)⟩
  recv_le := h.recv_le hp
  hdr_frame := h.hdr_frame hp
  pat_frame := h.pat_frame hp
  pending_header := h.pending_header hp

/-- An idle context is good for every capacity once its window is empty. -/
theorem Producer.Contents.inv_of_idle (h : P.Contents c) (hp : P.phase = .idle) (hw : P.win = []) :
    P.Inv c rxCap where
  hdrBytes := h.hdrBytes
  hdrLen_le := h.hdrLen_le
  cursor_le := h.cursor_le
  cursor_lt hx := by simp [hp] at hx
  cursor_zero hx := by simp [hp] at hx
  total_width := h.total_width
  payTotal_width := h.payTotal_width
  win_le := by simp [hw]
  win_live hx := absurd hw hx
  recv_le hx := absurd hp hx
  hdr_frame hx := absurd hp hx
  pat_frame hx := absurd hp hx
  pending_header hx := absurd hp hx
  code_width := h.code_width
  pay_canonical := h.pay_canonical
  port_canonical := h.port_canonical

theorem Producer.Contents.inv_of_acq (h : P.Contents c) (k : P.Frame rxCap) (hp : P.phase = .acq)
    (h0 : P.cursor = 0) (hw : P.win = []) : P.Inv c rxCap where
  hdrBytes := h.hdrBytes
  hdrLen_le := h.hdrLen_le
  cursor_le := h.cursor_le
  cursor_lt hx := by simp [hp] at hx
  cursor_zero _ := h0
  total_width := h.total_width
  payTotal_width := h.payTotal_width
  win_le := k.win_le
  win_live hx := absurd hw hx
  recv_le _ := k.recv_le
  hdr_frame _ := k.hdr_frame
  pat_frame _ := k.pat_frame
  pending_header _ := k.pending_header
  code_width := h.code_width
  pay_canonical := h.pay_canonical
  port_canonical := h.port_canonical

theorem Producer.Contents.inv_of_xfer (h : P.Contents c) (k : P.Frame rxCap) (hp : P.phase = .xfer)
    (hlt : P.cursor < P.total) : P.Inv c rxCap where
  hdrBytes := h.hdrBytes
  hdrLen_le := h.hdrLen_le
  cursor_le := h.cursor_le
  cursor_lt _ := hlt
  cursor_zero hx := by simp [hp] at hx
  total_width := h.total_width
  payTotal_width := h.payTotal_width
  win_le := k.win_le
  win_live hw := ⟨hp, (k.win_send hw).1⟩
  recv_le _ := k.recv_le
  hdr_frame _ := k.hdr_frame
  pat_frame _ := k.pat_frame
  pending_header _ := k.pending_header
  code_width := h.code_width
  pay_canonical := h.pay_canonical
  port_canonical := h.port_canonical

end

/-- A context as reset leaves it, with the requests still on its port (R40, R210). -/
theorem reset_contents (c : Config) {port : List Request} (h : ∀ r ∈ port, Memory.wf r.pay = true) :
    ({ Producer.reset with port := port } : Producer).Contents c :=
  ⟨rfl, Nat.zero_le 16, Nat.le_refl 0, Nat.two_pow_pos _, Nat.two_pow_pos _, rfl, rfl, h⟩

/-! ## The session, and the block but for one producer -/

/-- What `State.Inv` says of the session alone. -/
structure Session.Shape (c : Config) (S : Session) : Prop where
  rxLen_le : S.rxLen ≤ S.rxCap
  rxBuf_length : S.rxBuf.length = S.rxCap
  rxCap_width : S.rxCap < 2 ^ c.sizeBits
  no_capture : c.hasCapture = false → S.rxCap = 0
  owner_valid : S.lockOwner ≠ none → S.lockValid = true

/-- What `State.Inv` says of producer `p`. -/
structure State.PortInv (s : State) (p : Nat) : Prop where
  xfer_iff_owner : (s.producer p).phase = .xfer ↔ s.session.lockOwner = some p
  active_session : (s.producer p).phase ≠ .idle → s.session.initialized = true
  context : (s.producer p).Inv s.cfg s.session.rxCap

/-- The invariant but for the context of producer `p` of the block, and whether it holds the lock. -/
structure State.InvBut (s : State) (p : Nat) : Prop where
  in_block : p < s.producers.length
  config : s.cfg.wf = true
  ports : s.producers.length = s.cfg.nProd
  shape : s.session.Shape s.cfg
  owner_exists : ∀ q, q ≠ p → s.session.lockOwner = some q → q < s.producers.length
  others : ∀ q, q ≠ p → q < s.producers.length → s.PortInv q

/-- The session before it is first opened (R40). -/
theorem reset_shape (c : Config) : Session.reset.Shape c :=
  ⟨Nat.le_refl 0, rfl, Nat.two_pow_pos _, fun _ => rfl, fun h => absurd rfl h⟩

theorem Session.Shape.released {c : Config} {S : Session} (h : S.Shape c) :
    ({ S with lockOwner := none } : Session).Shape c :=
  ⟨h.rxLen_le, h.rxBuf_length, h.rxCap_width, h.no_capture, fun hn => absurd rfl hn⟩

theorem State.Inv.shape {s : State} (h : s.Inv) : s.session.Shape s.cfg :=
  ⟨h.rxLen_le, h.rxBuf_length, h.rxCap_width, h.no_capture, h.owner_valid⟩

theorem State.Inv.portInv {s : State} (h : s.Inv) {p : Nat} (hp : p < s.producers.length) : s.PortInv p :=
  ⟨h.xfer_iff_owner p hp, h.active_session p hp, h.producers_ok p hp⟩

theorem State.Inv.invBut {s : State} (h : s.Inv) {p : Nat} (hp : p < s.producers.length) : s.InvBut p :=
  ⟨hp, h.config, h.ports, h.shape, fun q _ => h.owner_exists q, fun _ _ hq => h.portInv hq⟩

/-- The invariant put together from what it says of the session and of each producer. -/
theorem State.Inv.of_ports {s : State} (config : s.cfg.wf = true) (ports : s.producers.length = s.cfg.nProd)
    (shape : s.session.Shape s.cfg) (owner_exists : ∀ q, s.session.lockOwner = some q → q < s.producers.length)
    (port : ∀ q, q < s.producers.length → s.PortInv q) : s.Inv :=
  ⟨config, ports, shape.rxLen_le, shape.rxBuf_length, shape.rxCap_width, shape.no_capture, shape.owner_valid,
    owner_exists, fun q hq => (port q hq).xfer_iff_owner, fun q hq => (port q hq).active_session,
    fun q hq => (port q hq).context⟩

/-- Producer `p` put back. -/
theorem State.InvBut.inv {s : State} {p : Nat} (h : s.InvBut p) (k : s.PortInv p) : s.Inv := by
  refine .of_ports h.config h.ports h.shape (fun q hq => ?_) (fun q hq => ?_) <;> by_cases hqp : q = p
  · exact hqp ▸ h.in_block
  · exact h.owner_exists q hqp hq
  · exact hqp ▸ k
  · exact h.others q hqp hq

/-- A step local to `p` keeps the rest of the invariant, if it keeps the session's shape, hands the lock to
no other producer, and while another operation is in progress neither resizes the buffer nor closes the
session. -/
theorem State.InvBut.of_localTo {s t : State} {p : Nat} (h : s.InvBut p) (l : s.LocalTo p t)
    (shape : t.session.Shape s.cfg)
    (owner : ∀ q, q ≠ p → (t.session.lockOwner = some q ↔ s.session.lockOwner = some q))
    (keeps : ∀ q, q ≠ p → q < s.producers.length → (s.producer q).phase ≠ .idle →
      t.session.rxCap = s.session.rxCap ∧ t.session.initialized = true) : t.InvBut p where
  in_block := l.ports ▸ h.in_block
  config := l.cfg ▸ h.config
  ports := by rw [l.ports, l.cfg, h.ports]
  shape := l.cfg ▸ shape
  owner_exists q hq ho := l.ports ▸ h.owner_exists q hq ((owner q hq).mp ho)
  others q hq hlt := by
    have hlt : q < s.producers.length := l.ports ▸ hlt
    obtain ⟨hx, _, hctx⟩ := h.others q hq hlt
    refine ⟨by rw [l.others q hq, owner q hq, hx], ?_, ?_⟩ <;> rw [l.others q hq]
    · exact fun hactive => (keeps q hq hlt hactive).2
    · rw [l.cfg]
      by_cases hidle : (s.producer q).phase = .idle
      · exact hctx.contents.inv_of_idle hidle (hctx.win_eq_nil (by simp [hidle]))
      · rwa [(keeps q hq hlt hidle).1]

/-- The context of `p` may change freely. -/
theorem State.InvBut.setProducer {s : State} {p : Nat} (h : s.InvBut p) (f : Producer → Producer) :
    (s.setProducer p f).InvBut p :=
  h.of_localTo (setProducer_localTo s p f) h.shape (fun _ _ => .rfl)
    fun q hq hlt hactive => ⟨rfl, (h.others q hq hlt).active_session hactive⟩

/-- A step that resizes nothing and closes nothing. -/
theorem State.InvBut.of_session {s t : State} {p : Nat} (h : s.InvBut p) (l : s.LocalTo p t)
    (shape : t.session.Shape s.cfg)
    (owner : ∀ q, q ≠ p → (t.session.lockOwner = some q ↔ s.session.lockOwner = some q))
    (cap : t.session.rxCap = s.session.rxCap)
    (opened : s.session.initialized = true → t.session.initialized = true) : t.InvBut p :=
  h.of_localTo l shape owner fun q hq hlt hactive => ⟨cap, opened ((h.others q hq hlt).active_session hactive)⟩

/-- The invariant looks at the configuration, the session and the producers only. -/
theorem State.Inv.congr {s t : State} (h : s.Inv) (hc : t.cfg = s.cfg) (hs : t.session = s.session)
    (hp : t.producers = s.producers) : t.Inv := by
  obtain ⟨cfg, session, producers, _, _, _⟩ := s
  obtain ⟨_, _, _, _, _, _⟩ := t
  subst hc hs hp
  exact ⟨h.config, h.ports, h.rxLen_le, h.rxBuf_length, h.rxCap_width, h.no_capture, h.owner_valid,
    h.owner_exists, h.xfer_iff_owner, h.active_session, h.producers_ok⟩

/-! ## Between frames -/

/-- Producer `p` is between frames: it does not hold the lock, its window is empty, and its phase, left
open, is about to be set. The invariant holds of all else. -/
structure State.Between (s : State) (p : Nat) : Prop where
  rest : s.InvBut p
  no_lock : s.session.lockOwner ≠ some p
  contents : (s.producer p).Contents s.cfg
  win_nil : (s.producer p).win = []

/-- A producer that is not in `XFER` is between frames. -/
theorem State.Inv.between {s : State} (h : s.Inv) {p : Nat} (hp : p < s.producers.length)
    (hx : (s.producer p).phase ≠ .xfer) : s.Between p where
  rest := h.invBut hp
  no_lock := mt (h.xfer_iff_owner p hp).mpr hx
  contents := (h.producers_ok p hp).contents
  win_nil := (h.producers_ok p hp).win_eq_nil hx

section
variable {s : State} {p : Nat}

theorem State.Between.setProducer (h : s.Between p) (f : Producer → Producer)
    (hc : (f (s.producer p)).Contents s.cfg) (hw : (f (s.producer p)).win = []) : (s.setProducer p f).Between p where
  rest := h.rest.setProducer f
  no_lock := h.no_lock
  contents := by rwa [producer_setProducer_self s p f h.rest.in_block]
  win_nil := by rwa [producer_setProducer_self s p f h.rest.in_block]

/-- An update of the session alone. -/
theorem State.Between.of_sameBut {t : State} (h : s.Between p) (l : s.SameBut t)
    (shape : t.session.Shape s.cfg) (owner : t.session.lockOwner = s.session.lockOwner)
    (keeps : ∀ q, q ≠ p → q < s.producers.length → (s.producer q).phase ≠ .idle →
      t.session.rxCap = s.session.rxCap ∧ t.session.initialized = true) : t.Between p where
  rest := h.rest.of_localTo (l.localTo p) shape (fun q _ => by rw [owner]) keeps
  no_lock := owner ▸ h.no_lock
  contents := by rw [l.cfg, producer_congr l.producers]; exact h.contents
  win_nil := by rw [producer_congr l.producers]; exact h.win_nil

/-- An update of the session that resizes nothing and closes nothing. -/
theorem State.Between.of_session {t : State} (h : s.Between p) (l : s.SameBut t)
    (shape : t.session.Shape s.cfg) (owner : t.session.lockOwner = s.session.lockOwner)
    (cap : t.session.rxCap = s.session.rxCap)
    (opened : s.session.initialized = true → t.session.initialized = true) : t.Between p :=
  h.of_sameBut l shape owner fun q hq hlt hactive => ⟨cap, opened ((h.rest.others q hq hlt).active_session hactive)⟩

theorem State.Between.setSession (h : s.Between p) (f : Session → Session) (shape : (f s.session).Shape s.cfg)
    (owner : (f s.session).lockOwner = s.session.lockOwner) (cap : (f s.session).rxCap = s.session.rxCap)
    (opened : s.session.initialized = true → (f s.session).initialized = true) : (s.setSession f).Between p :=
  h.of_session ⟨rfl, rfl, rfl, rfl⟩ shape owner cap opened

/-- A trace event or an answer taken changes nothing that the invariant looks at. -/
theorem State.Between.of_session_eq {t : State} (h : s.Between p) (l : s.SameBut t)
    (hs : t.session = s.session) : t.Between p :=
  h.of_session l (hs ▸ h.rest.shape) (by rw [hs]) (by rw [hs]) (hs ▸ id)

/-- R16, R194: an operation that ends between frames leaves the invariant. -/
theorem State.Between.finish (h : s.Between p) {r : Result} (hr : r.fits s.cfg.errBits = true) (v : Value) :
    (s.finish p r v).Inv := by
  have hb := h.setProducer (fun P => { P with phase := .idle, result := r, value := v })
    { h.contents with code_width := hr } h.win_nil
  have hidle : ((s.finish p r v).producer p).phase = .idle := by
    rw [State.finish, producer_setProducer_self s p _ h.rest.in_block]
  refine hb.rest.inv ⟨?_, fun hactive => absurd hidle hactive, hb.contents.inv_of_idle hidle hb.win_nil⟩
  exact iff_of_false (by rw [State.finish] at hidle; simp [hidle]) hb.no_lock

/-- R124, R134: a frame set up between frames, waiting for the lock of an open session. -/
theorem State.Between.wait (h : s.Between p) (hi : s.session.initialized = true) (f : Producer → Producer)
    (hphase : (f (s.producer p)).phase = .acq) (hc : (f (s.producer p)).Contents s.cfg)
    (hf : (f (s.producer p)).Frame s.session.rxCap) (h0 : (f (s.producer p)).cursor = 0)
    (hw : (f (s.producer p)).win = []) : (s.setProducer p f).Inv := by
  have hself := producer_setProducer_self s p f h.rest.in_block
  refine (h.rest.setProducer f).inv ⟨?_, fun _ => hi, ?_⟩ <;> rw [hself]
  · exact iff_of_false (by simp [hphase]) h.no_lock
  · exact hc.inv_of_acq hf hphase h0 hw

/-- R124: `BeginSend` leaves the invariant, for a frame as long as its source says; only a header's frame
may have a payload to follow. -/
theorem State.Between.beginSend (h : s.Between p) (src : Src) (valid : Bool) {total : Nat}
    (width : total < 2 ^ s.cfg.lenBits) (hhdr : src = .hdr → total = (s.producer p).hdrLen)
    (hpat : src = .pat → total = (s.producer p).pat.length)
    (hpend : (s.producer p).payPending = true → src = .hdr ∧ 0 < total ∧ 0 < (s.producer p).payTotal) :
    (s.beginSend p src valid total).Inv := by
  rcases beginSend_cases s p src valid total with ⟨_, e⟩ | ⟨_, _, _, e⟩ | ⟨hi, _, e⟩ <;> rw [e]
  · exact h.finish rfl _
  · exact h.finish rfl _
  · refine h.wait hi _ rfl { h.contents with cursor_le := Nat.zero_le total, total_width := width } ?_ rfl rfl
    exact ⟨Nat.zero_le _, fun hw => absurd rfl hw, fun hd => Dir.noConfusion hd, fun _ => hhdr, fun _ => hpat,
      fun hp => ⟨rfl, hpend hp⟩⟩

/-- R134: so does the issue step of `readInto`. -/
theorem State.Between.beginReceive (h : s.Between p) (n : Nat) : (s.beginReceive p n).Inv := by
  rcases beginReceive_cases s p n with ⟨_, e⟩ | ⟨_, _, e⟩ | ⟨_, _, _, e⟩ | ⟨hi, _, hn, e⟩ <;> rw [e]
  · exact h.finish rfl _
  · exact h.finish rfl _
  · exact h.finish rfl _
  · have width := lt_lenBits_of_lt_sizeBits (hn.trans_lt h.rest.shape.rxCap_width)
    refine h.wait hi _ rfl { h.contents with cursor_le := Nat.zero_le n, total_width := width } ?_ rfl h.win_nil
    exact ⟨by simp [h.win_nil], fun hw => absurd h.win_nil hw, fun _ => hn, fun hd => Dir.noConfusion hd,
      fun hd => Dir.noConfusion hd, fun hp => Bool.noConfusion hp⟩

/-- R150: so does `EncoderOp`, for a header frame that is not empty and fits its staging buffer. -/
theorem State.Between.encoderOp (h : s.Between p) {frame : List Byte} {payLen : Nat}
    (staged : 0 < frame.length ∧ frame.length ≤ 16) (width : payLen < 2 ^ 34) :
    (s.encoderOp p frame payLen).Inv := by
  obtain ⟨hpos, hle⟩ := staged
  have hdrBytes : (memWrite (s.producer p).hdr 0 frame).length = 16 := by
    rw [length_memWrite _ _ _ (by rw [h.contents.hdrBytes]; omega), h.contents.hdrBytes]
  refine (h.setProducer _ { h.contents with
    hdrBytes := hdrBytes, hdrLen_le := hle, payTotal_width := lt_lenBits_of_lt_34 width } h.win_nil).beginSend
      .hdr true (lt_lenBits_of_lt_34 (hle.trans_lt (by decide))) ?_ (fun hs => by cases hs) ?_ <;>
    rw [producer_setProducer_self s p _ h.rest.in_block]
  · exact fun _ => rfl
  · exact fun hp => ⟨rfl, hpos, of_decide_eq_true hp⟩

end

/-! ## Holding the lock -/

/-- Producer `p` holds the lock of an open session and moves a frame, whose cursor may stand at its end.
The invariant holds of all else. -/
structure State.Holding (s : State) (p : Nat) : Prop where
  rest : s.InvBut p
  owner : s.session.lockOwner = some p
  opened : s.session.initialized = true
  contents : (s.producer p).Contents s.cfg
  frame : (s.producer p).Frame s.session.rxCap

/-- A producer in `XFER` holds the lock. -/
theorem State.Inv.holding {s : State} (h : s.Inv) {p : Nat} (hp : p < s.producers.length)
    (hx : (s.producer p).phase = .xfer) : s.Holding p where
  rest := h.invBut hp
  owner := (h.xfer_iff_owner p hp).mp hx
  opened := h.active_session p hp (by simp [hx])
  contents := (h.producers_ok p hp).contents
  frame := (h.producers_ok p hp).frame (by simp [hx])

/-- A waiting producer that takes the free lock holds it (R126). -/
theorem State.Inv.holding_of_acquire {s : State} (h : s.Inv) {p : Nat} (hp : p < s.producers.length)
    (ha : (s.producer p).phase = .acq) (hfree : s.session.lockOwner = none) :
    (s.setSession fun S => { S with lockOwner := some p }).Holding p := by
  have opened := h.active_session p hp (by simp [ha])
  have lockValid : s.session.lockValid = true := by
    simp only [Session.initialized, Bool.and_eq_true] at opened
    exact opened.2
  refine ⟨(h.invBut hp).of_session (setSession_localTo s p _) { h.shape with owner_valid := fun _ => lockValid }
    (fun q hq => ?_) rfl id, rfl, opened, (h.producers_ok p hp).contents,
    (h.producers_ok p hp).frame (by simp [ha])⟩
  rw [hfree]
  exact iff_of_false (fun hpq => hq (Option.some.inj hpq).symm) (by simp)

section
variable {s : State} {p : Nat}

/-- A holder in `XFER` with bytes left to move. -/
theorem State.Holding.inv (h : s.Holding p) (hx : (s.producer p).phase = .xfer)
    (hlt : (s.producer p).cursor < (s.producer p).total) : s.Inv :=
  h.rest.inv ⟨iff_of_true hx h.owner, fun _ => h.opened, h.contents.inv_of_xfer h.frame hx hlt⟩

theorem State.Holding.setProducer (h : s.Holding p) (f : Producer → Producer)
    (hc : (f (s.producer p)).Contents s.cfg) (hf : (f (s.producer p)).Frame s.session.rxCap) :
    (s.setProducer p f).Holding p where
  rest := h.rest.setProducer f
  owner := h.owner
  opened := h.opened
  contents := by rwa [producer_setProducer_self s p f h.rest.in_block]
  frame := by rw [producer_setProducer_self s p f h.rest.in_block]; exact hf

/-- An update of the capture buffer's bytes, the trace or the environment's answers. -/
theorem State.Holding.of_sameBut {t : State} (h : s.Holding p) (l : s.SameBut t)
    (shape : t.session.Shape s.cfg) (owner : t.session.lockOwner = s.session.lockOwner)
    (cap : t.session.rxCap = s.session.rxCap) (opened : t.session.initialized = s.session.initialized) :
    t.Holding p where
  rest := h.rest.of_session (l.localTo p) shape (fun q _ => by rw [owner]) cap (opened ▸ id)
  owner := owner ▸ h.owner
  opened := opened ▸ h.opened
  contents := by rw [l.cfg, producer_congr l.producers]; exact h.contents
  frame := by rw [cap, producer_congr l.producers]; exact h.frame

/-- R196: releasing the lock while the window is dropped takes a holder between frames. -/
theorem State.Holding.released {t : State} (h : s.Holding p) (l : s.LocalTo p t)
    (shape : t.session.Shape s.cfg) (cap : t.session.rxCap = s.session.rxCap)
    (opened : t.session.initialized = s.session.initialized) (free : t.session.lockOwner = none)
    (contents : (t.producer p).Contents s.cfg) (win : (t.producer p).win = []) : t.Between p where
  rest := h.rest.of_session l shape
    (fun q hq => by rw [free, h.owner]; exact iff_of_false (by simp) fun hpq => hq (Option.some.inj hpq).symm)
    cap (opened ▸ id)
  no_lock := by simp [free]
  contents := by rwa [l.cfg]
  win_nil := win

/-! ## The end of a frame (R129, R130) -/

/-- The buffer after the capture commit of a window that fits has its size and a length within it. -/
theorem captured_shape {c : Config} (h : s.session.Shape c)
    (hw : (s.producer p).win.length ≤ s.session.rxCap) : (s.captured p).session.Shape c := by
  unfold State.captured
  split
  · rw [commitWindow_session]
    refine { h with rxLen_le := hw, rxBuf_length := ?_ }
    have fits : 0 + (s.producer p).win.length ≤ s.session.rxBuf.length := by rw [h.rxBuf_length]; omega
    rw [length_unspecifiedFrom, length_memWrite _ _ _ fits, h.rxBuf_length]
  · exact h

/-- The capture commit and the release of the lock: the window is empty, whether there was anything to
commit or not. -/
theorem State.Holding.captured (h : s.Holding p) : ((s.captured p).releaseLock).Between p := by
  obtain ⟨_, cap, opened⟩ := (captured_keepsSources s p).trans (releaseLock_keepsSources _ p)
  have hself : ((s.captured p).releaseLock).producer p = _ := producer_captured_self s p h.rest.in_block
  refine h.released ((captured_localTo s p).trans (releaseLock_localTo _ p))
    (captured_shape h.rest.shape h.frame.win_le).released cap opened rfl ?_ ?_ <;> rw [hself]
  · exact { h.contents with }
  · show (if _ then [] else (s.producer p).win) = []
    split
    · rfl
    · next hnone =>
      by_contra hw
      have hpos := (h.frame.win_send hw).2
      have hcap : 0 < s.session.rxCap := (List.length_pos_iff.mpr hw).trans_le h.frame.win_le
      exact hnone (by simp [Session.capturing, hpos, hcap])

/-- The commit of a receive and the release of the lock. -/
theorem State.Holding.commitReceive (h : s.Holding p) (hd : (s.producer p).dir = .recv) :
    ((s.commitReceive p).releaseLock).Between p := by
  have win : (s.producer p).win = [] := by
    by_contra hw
    simp [(h.frame.win_send hw).1] at hd
  have shape : (s.commitReceive p).session.Shape s.cfg := by
    rw [commitReceive_session]
    exact { h.rest.shape with
      rxLen_le := h.frame.recv_le hd, rxBuf_length := by rw [length_unspecifiedFrom, h.rest.shape.rxBuf_length] }
  exact h.released ((commitReceive_localTo s p).trans (releaseLock_localTo _ p)) shape.released rfl rfl rfl
    h.contents win

/-- R129: the end of a frame leaves the invariant. -/
theorem State.Holding.frameDone (h : s.Holding p) : (s.frameDone p).Inv := by
  rcases hd : (s.producer p).dir with _ | _
  · rcases hp : (s.producer p).payPending with _ | _
    · rw [frameDone_send_last s p hd hp]
      exact h.captured.finish rfl _
    · rw [frameDone_send_payload s p hd hp]
      have hb := h.captured
      refine (hb.setProducer _ { hb.contents with } hb.win_nil).beginSend .pay _ ?_ (fun hs => by cases hs)
        (fun hs => by cases hs) ?_
      · exact (captured_localTo s p).cfg ▸ h.contents.payTotal_width
      · rw [producer_setProducer_self _ p _ hb.rest.in_block]
        exact fun hpend => by cases hpend
  · rw [frameDone_recv s p hd]
    exact (h.commitReceive hd).finish rfl _

/-- The capture buffer as a failed chunk leaves it (R34, R130). -/
def State.staled (s : State) : State :=
  if s.session.capturing then (s.setSession fun S => { S with rxStale := true }).unspecifyRxFrom 0 else s

theorem chunkFailed_eq (s : State) (p code : Nat) :
    s.chunkFailed p code = (((s.staled).releaseLock).setProducer p fun P =>
      { P with payPending := false, win := [] }).raise p (.transferFailed code) := rfl

theorem staled_sameBut (s : State) : s.SameBut s.staled := by
  unfold State.staled; split <;> exact ⟨rfl, rfl, rfl, rfl⟩

theorem State.Holding.staled (h : s.Holding p) : (s.staled).Holding p := by
  unfold State.staled
  split
  · refine h.of_sameBut ⟨rfl, rfl, rfl, rfl⟩ { h.rest.shape with rxBuf_length := ?_ } rfl rfl rfl
    exact (length_unspecifiedFrom ..).trans h.rest.shape.rxBuf_length
  · exact h

/-- R130: a failed chunk leaves the invariant. -/
theorem State.Holding.chunkFailed (h : s.Holding p) {code : Nat} (hcode : code < 2 ^ s.cfg.errBits) :
    (s.chunkFailed p code).Inv := by
  have hs := h.staled
  have hself := producer_setProducer_self ((s.staled).releaseLock) p
    (fun P => { P with payPending := false, win := [] }) hs.rest.in_block
  have hb : (((s.staled).releaseLock).setProducer p fun P =>
      { P with payPending := false, win := [] }).Between p :=
    hs.released ((releaseLock_localTo _ p).trans (setProducer_localTo _ p _)) hs.rest.shape.released rfl rfl rfl
      (by rw [hself]; exact { hs.contents with }) (by rw [hself])
  rw [chunkFailed_eq]
  refine hb.finish (Result.fits_transferFailed ?_) _
  show code < 2 ^ (s.staled).cfg.errBits
  rwa [(staled_sameBut s).cfg]

/-! ## A chunk (R128) -/

/-- Of its producer a stored chunk changes the capture window alone, and that of a send. -/
theorem producer_storeChunk_self (s : State) {p : Nat} (rx : List Byte) (hp : p < s.producers.length) :
    (s.storeChunk p rx).producer p = { s.producer p with
      win := if (s.producer p).dir = .send ∧ s.session.capturing = true
        then lastN ((s.producer p).win ++ rx) s.session.rxCap else (s.producer p).win } := by
  unfold State.storeChunk
  rcases hd : (s.producer p).dir with _ | _
  · by_cases hcap : s.session.capturing = true
    · simp only [hcap, if_true, and_self]
      rw [producer_setProducer_self s p _ hp]
    · simp [hcap]
  · simp

/-- The received bytes of a chunk that fits its frame: a send's window keeps within the capacity, a
receive writes inside the buffer. -/
theorem State.Holding.storeChunk (h : s.Holding p) {rx : List Byte}
    (hfit : (s.producer p).cursor + rx.length ≤ (s.producer p).total) (hpos : 0 < (s.producer p).total) :
    (s.storeChunk p rx).Holding p := by
  unfold State.storeChunk
  rcases hd : (s.producer p).dir with _ | _
  · dsimp only
    split
    · refine h.setProducer _ { h.contents with } { h.frame with win_le := ?_, win_send := fun _ => ⟨hd, hpos⟩ }
      rw [length_lastN]
      exact Nat.min_le_right _ _
    · exact h
  · refine h.of_sameBut ⟨rfl, rfl, rfl, rfl⟩ { h.rest.shape with rxBuf_length := ?_ } rfl rfl rfl
    have inside : (s.producer p).cursor + rx.length ≤ s.session.rxBuf.length := by
      rw [h.rest.shape.rxBuf_length]
      exact hfit.trans (h.frame.recv_le hd)
    exact (length_memWrite _ _ _ inside).trans h.rest.shape.rxBuf_length

/-- A successful chunk leaves the invariant, whether it is the frame's last or not. -/
theorem State.Holding.chunkDone (h : s.Holding p) (hx : (s.producer p).phase = .xfer) {rx : List Byte}
    (hfit : (s.producer p).cursor + rx.length ≤ (s.producer p).total) (hpos : 0 < (s.producer p).total) :
    (s.chunkDone p rx.length rx).Inv := by
  have hs := h.storeChunk hfit hpos
  have stored := producer_storeChunk_self s rx h.rest.in_block
  have contents := hs.contents
  have frame := hs.frame
  rw [stored] at contents frame
  have hself := producer_setProducer_self (s.storeChunk p rx) p
    (fun P => { P with cursor := P.cursor + rx.length }) hs.rest.in_block
  rw [stored] at hself
  have hnext : ((s.storeChunk p rx).setProducer p fun P => { P with cursor := P.cursor + rx.length }).Holding p :=
    hs.setProducer _ (by rw [stored]; exact { contents with cursor_le := hfit }) (by rw [stored]; exact { frame with })
  unfold State.chunkDone
  dsimp only
  split
  · exact hnext.frameDone
  · next hmore => exact hnext.inv (by rw [hself]; exact hx) (by rw [hself]; exact Nat.lt_of_le_of_ne hfit hmore)

/-- R128: one physical transfer, answered well or not, leaves the invariant. -/
theorem State.Holding.transferChunk (h : s.Holding p) (hx : (s.producer p).phase = .xfer)
    (hlt : (s.producer p).cursor < (s.producer p).total) : (s.transferChunk p).Inv := by
  have traced (e : Event) : ((s.channelTaken).emit e).Holding p :=
    h.of_sameBut ⟨rfl, rfl, rfl, rfl⟩ h.rest.shape rfl rfl rfl
  unfold State.transferChunk
  dsimp only
  split
  · next rx hrx =>
    have hlen := channelAnswer_length hrx
    have hfit : (s.producer p).cursor + rx.length ≤ (s.producer p).total := by
      rw [hlen, State.chunkSize, chunkBytes]
      omega
    rw [← hlen]
    exact (traced _).chunkDone hx hfit (Nat.zero_lt_of_lt hlt)
  · next code hcode =>
    have hlt := channelAnswer_code hcode
    exact (traced _).chunkFailed hlt

end

end Sys2Proof.Machine
end

section
/-! SUPPORT. Every step keeps R38's invariant: the issue step by what an operation can do, the others by what
the sequencer does; and reset, from where it starts. -/

namespace Sys2Proof.Machine

/-! ## The operations on the session (R121, R122, R133) -/

section
variable {s : State} {p : Nat}

/-- An acquisition leaves the producer between frames, and its error, if any, fits. -/
structure OpensWell (p : Nat) (r : State × Option Result) : Prop where
  between : r.1.Between p
  code : ∀ e, r.2 = some e → e.fits r.1.cfg.errBits = true

/-- A code of the bus opener has `ERR_BITS` bits (R15). -/
theorem openerAnswer_code {code : Nat} (h : s.openerAnswer = .fail code) : code < 2 ^ s.cfg.errBits := by
  unfold State.openerAnswer openStatus at h
  split at h
  · cases h
  · cases h
    exact Nat.mod_lt _ (Nat.two_pow_pos _)

theorem State.Between.opensWell (h : s.Between p) : OpensWell p (s, none) := ⟨h, fun e he => by cases he⟩

theorem State.Between.failsWell (h : s.Between p) {e : Result} (he : e.fits s.cfg.errBits = true) :
    OpensWell p (s, some e) :=
  ⟨h, fun e' he' => by cases he'; exact he⟩

/-- The opener's answer, taken and traced. -/
theorem State.Between.openerAnswered (h : s.Between p) (e : Event) : ((s.openerTaken).emit e).Between p :=
  h.of_session_eq ⟨rfl, rfl, rfl, rfl⟩ rfl

/-- The allocator's answer, taken and traced. -/
theorem State.Between.allocatorAnswered (h : s.Between p) (e : Event) : ((s.allocatorTaken).emit e).Between p :=
  h.of_session_eq ⟨rfl, rfl, rfl, rfl⟩ rfl

theorem acquireBus_opensWell (h : s.Between p) : OpensWell p s.acquireBus := by
  unfold State.acquireBus
  split
  · exact h.opensWell
  · split
    · refine State.Between.opensWell ((h.openerAnswered _).setSession _ { h.rest.shape with } rfl rfl ?_)
      simp +contextual [Session.initialized]
    · next code hcode =>
      have hlt := openerAnswer_code hcode
      exact (h.openerAnswered _).failsWell (Result.fits_transferFailed hlt)

theorem acquireDevice_opensWell (h : s.Between p) : OpensWell p s.acquireDevice := by
  unfold State.acquireDevice
  split
  · exact h.opensWell
  · split
    · refine State.Between.opensWell ((h.openerAnswered _).setSession _ { h.rest.shape with } rfl rfl ?_)
      simp +contextual [Session.initialized]
    · next code hcode =>
      have hlt := openerAnswer_code hcode
      exact (h.openerAnswered _).failsWell (Result.fits_transferFailed hlt)

theorem acquireLock_opensWell (h : s.Between p) : OpensWell p s.acquireLock := by
  unfold State.acquireLock
  split
  · exact h.opensWell
  · next hmissing =>
    have free : s.session.lockOwner = none := by_contra fun ho => hmissing (h.rest.shape.owner_valid ho)
    split
    · refine State.Between.opensWell ((h.allocatorAnswered _).setSession _
        { h.rest.shape with owner_valid := fun _ => rfl } free.symm rfl ?_)
      simp +contextual [Session.initialized]
    · exact (h.allocatorAnswered _).failsWell rfl

theorem andThen_opensWell {first : State × Option Result} {next : State → State × Option Result}
    (h : OpensWell p first) (k : ∀ {t : State}, t.Between p → OpensWell p (next t)) :
    OpensWell p (andThen first next) := by
  obtain ⟨t, _ | e⟩ := first
  · exact k h.between
  · exact h

theorem openSession_opensWell (h : s.Between p) : OpensWell p s.openSession :=
  andThen_opensWell (andThen_opensWell (acquireBus_opensWell h) acquireDevice_opensWell) acquireLock_opensWell

theorem OpensWell.reply {r : State × Option Result} (h : OpensWell p r) : (State.reply p r).Inv := by
  obtain ⟨t, _ | e⟩ := r
  · exact h.between.finish rfl _
  · exact h.between.finish (h.code e rfl) _

/-- R222: in a block that is not in use every producer is idle. -/
theorem phase_of_not_inUse (hq : s.inUse = false) {q : Nat} (h : q < s.producers.length) :
    (s.producer q).phase = .idle := by
  simp only [State.inUse, List.any_eq_false, bne_iff_ne, ne_eq, not_not] at hq
  simpa [State.producer, List.getD_eq_getElem?_getD, List.getElem?_eq_getElem h] using
    hq s.producers[q] (List.getElem_mem h)

theorem inUse_congr {t : State} (h : t.producers = s.producers) : t.inUse = s.inUse := by
  simp [State.inUse, h]

/-- In a block that is not in use the session may be resized and closed. -/
theorem State.Between.of_quiet {t : State} (h : s.Between p) (hq : s.inUse = false) (l : s.SameBut t)
    (shape : t.session.Shape s.cfg) (owner : t.session.lockOwner = s.session.lockOwner) : t.Between p :=
  h.of_sameBut l shape owner fun _ _ hlt hactive => absurd (phase_of_not_inUse hq hlt) hactive

/-- In a block that is not in use nobody holds the lock. -/
theorem State.Between.lockOwner_of_quiet (h : s.Between p) (hq : s.inUse = false) :
    s.session.lockOwner = none := by
  rcases ho : s.session.lockOwner with _ | q
  · rfl
  · have hqp : q ≠ p := fun hqp => h.no_lock (hqp ▸ ho)
    have hlt := h.rest.owner_exists q hqp ho
    have hx := (h.rest.others q hqp hlt).xfer_iff_owner.mpr ho
    simp [phase_of_not_inUse hq hlt] at hx

theorem State.Between.releaseDevice (h : s.Between p) (hq : s.inUse = false) : (s.releaseDevice).Between p := by
  unfold State.releaseDevice
  split
  · exact h.of_quiet hq ⟨rfl, rfl, rfl, rfl⟩ { h.rest.shape with } rfl
  · exact h

theorem State.Between.releaseBus (h : s.Between p) (hq : s.inUse = false) : (s.releaseBus).Between p := by
  unfold State.releaseBus
  split
  · exact h.of_quiet hq ⟨rfl, rfl, rfl, rfl⟩ { h.rest.shape with } rfl
  · exact h

theorem State.Between.destroyLock (h : s.Between p) (hq : s.inUse = false) : (s.destroyLock).Between p := by
  unfold State.destroyLock
  split
  · exact h.of_quiet hq ⟨rfl, rfl, rfl, rfl⟩ { h.rest.shape with owner_valid := fun ho => absurd rfl ho }
      (h.lockOwner_of_quiet hq).symm
  · exact h

/-- R122: device, bus and lock released. -/
theorem State.Between.closeSession (h : s.Between p) (hq : s.inUse = false) :
    (((s.releaseDevice).releaseBus).destroyLock).Between p := by
  have hq1 := (inUse_congr (releaseDevice_sameBut s).producers).trans hq
  have hq2 := (inUse_congr (releaseBus_sameBut s.releaseDevice).producers).trans hq1
  exact ((h.releaseDevice hq).releaseBus hq1).destroyLock hq2

theorem State.Between.freeCapture (h : s.Between p) : (s.freeCapture).Between p := by
  refine h.of_session_eq (freeCapture_sameBut s) ?_
  unfold State.freeCapture
  split <;> rfl

theorem State.Between.installCapture (h : s.Between p) (hq : s.inUse = false) {n : Nat}
    (fits : n < 2 ^ s.cfg.sizeBits) (unit : s.cfg.hasCapture = true) : (s.installCapture n).Between p :=
  h.of_quiet hq (installCapture_sameBut s n)
    { h.rest.shape with
      rxLen_le := Nat.zero_le n, rxBuf_length := List.length_replicate, rxCap_width := fits
      no_capture := fun hn => by simp [unit] at hn } rfl

/-- A capture buffer freed and another one put in its place. -/
theorem State.Between.swapCapture (h : s.Between p) (hq : s.inUse = false) {n : Nat}
    (fits : n < 2 ^ s.cfg.sizeBits) (unit : s.cfg.hasCapture = true) :
    ((s.freeCapture).installCapture n).Between p := by
  have l := freeCapture_sameBut s
  exact h.freeCapture.installCapture ((inUse_congr l.producers).trans hq) (l.cfg ▸ fits) (l.cfg ▸ unit)

/-- R133: a change of the capacity leaves the invariant. -/
theorem State.Between.changeCapacity (h : s.Between p) (hq : s.inUse = false) {n : Nat}
    (fits : n < 2 ^ s.cfg.sizeBits) (unit : s.cfg.hasCapture = true) : (s.changeCapacity p n).Inv := by
  unfold State.changeCapacity
  split
  · exact (h.swapCapture hq (Nat.two_pow_pos _) unit).finish rfl _
  · split
    · exact ((h.allocatorAnswered _).swapCapture hq fits unit).finish rfl _
    · exact (h.allocatorAnswered _).finish rfl _

end

/-! ## The issue step (R125) -/

/-- R172: the self-test pattern is shorter than `2 ^ 34`. -/
theorem testPattern_length_lt {c : Config} (h : c.wf = true) (marker : Byte) :
    (testPattern c marker).length < 2 ^ 34 := by
  simp only [Config.wf, TestPattern.wf, Bool.and_eq_true, decide_eq_true_eq] at h
  obtain ⟨_, ⟨⟨⟨_, short⟩, _⟩, _⟩, _⟩ := h
  rwa [testPattern, List.length_set]

theorem State.Between.latched {s u : State} (h : s.Between s.cur) (l : s.Latched u) : u.Between s.cur := by
  obtain rfl | ⟨valid, rfl⟩ := l
  · exact h
  · exact h.setProducer _ { h.contents with } h.win_nil

/-- Whatever an operation does in its issue step, the invariant holds after it. -/
theorem IssuesTo.inv {s t : State} (h : s.Between s.cur) (hi : IssuesTo s t) : t.Inv := by
  cases hi with
  | ends u latched r v code next =>
    exact next ▸ (h.latched latched).finish (Result.fits_of_devCode_none code _) v
  | opens next => exact next ▸ (openSession_opensWell h).reply
  | closes quiet next => exact next ▸ (h.closeSession quiet).finish rfl _
  | sends valid length fits next =>
    have hl : (s.latchPayValid s.cur valid).Between s.cur := h.latched (.inr ⟨valid, rfl⟩)
    have hb := hl.setProducer (fun P => { P with payPending := false }) { hl.contents with } hl.win_nil
    refine next ▸ hb.beginSend .pay valid (lt_lenBits_of_lt_sizeBits fits) (fun hs => Src.noConfusion hs)
      (fun hs => Src.noConfusion hs) ?_
    rw [producer_setProducer_self _ _ _ hl.rest.in_block]
    exact fun hp => Bool.noConfusion hp
  | resizes n unit quiet fits next => exact next ▸ h.changeCapacity quiet fits unit
  | receives n next => exact next ▸ h.beginReceive n
  | shows next => exact next ▸ (h.of_session_eq (t := s.drawn) ⟨rfl, rfl, rfl, rfl⟩ rfl).finish rfl _
  | encodes u latched frame payLen staged width next => exact next ▸ (h.latched latched).encoderOp staged width
  | tests marker next =>
    have hb := h.setProducer (fun P => { P with pat := testPattern s.cfg marker, payPending := false })
      { h.contents with } h.win_nil
    have hself := producer_setProducer_self s s.cur
      (fun P => { P with pat := testPattern s.cfg marker, payPending := false }) h.rest.in_block
    refine next ▸ hb.beginSend .pat true (lt_lenBits_of_lt_34 (testPattern_length_lt h.rest.config marker))
      (fun hs => Src.noConfusion hs) (fun _ => ?_) ?_ <;> rw [hself]
    exact fun hp => Bool.noConfusion hp

/-- An idle producer that accepts a request of its port is between frames. -/
theorem State.Inv.between_accept {s : State} {p : Nat} (h : s.Inv) (hp : p < s.producers.length)
    (hidle : (s.producer p).phase = .idle) {req : Request} {more : List Request}
    (hport : (s.producer p).port = req :: more) (i : Instr) : (s.accept p req i).Between p := by
  have hb := h.between hp (by simp [hidle])
  have canonical := hb.contents.port_canonical
  refine hb.setProducer _ { hb.contents with pay_canonical := ?_, port_canonical := ?_ } hb.win_nil
  · exact canonical req (by simp [hport])
  · exact fun r hr => canonical r (List.mem_of_mem_tail hr)

/-! ## Every step -/

/-- R126: the acquire step, of an empty frame too, leaves the invariant. -/
theorem State.Inv.acquireStep {s : State} {p : Nat} (h : s.Inv) (hp : p < s.producers.length)
    (ha : (s.producer p).phase = .acq) (hfree : s.session.lockOwner = none) : (s.acquireStep p).Inv := by
  have hh := h.holding_of_acquire hp ha hfree
  unfold State.acquireStep
  dsimp only
  split
  · exact hh.frameDone
  · next hlen =>
    have hself := producer_setProducer_self (s.setSession fun S => { S with lockOwner := some p }) p
      (fun P => { P with phase := .xfer }) hp
    refine (hh.setProducer (fun P => { P with phase := .xfer }) { hh.contents with } { hh.frame with }).inv ?_ ?_ <;>
      rw [hself]
    show (s.producer p).cursor < (s.producer p).total
    rw [(h.producers_ok p hp).cursor_zero ha]
    exact Nat.pos_of_ne_zero hlen

/-- A step of producer `p`, scheduled at its own port, keeps the invariant. -/
theorem StepsTo.inv {s t : State} {p : Nat} (h : s.Inv) (hp : p < s.producers.length) (hcur : s.cur = p)
    (hs : StepsTo s p t) : t.Inv := by
  cases hs with
  | waits _ _ next => exact next ▸ h
  | issues req more i phase port _ fits next =>
    subst hcur
    exact (exec_cases (s := s.accept s.cur req i) fits next).inv (h.between_accept hp phase port i)
  | rejects req more _ phase port _ next =>
    have hb := h.between hp (by simp [phase])
    subst next
    refine (hb.setProducer _ { hb.contents with port_canonical := ?_ } hb.win_nil).finish rfl _
    exact fun r hr => hb.contents.port_canonical r (List.mem_of_mem_tail hr)
  | acquires phase free next => exact next ▸ h.acquireStep hp phase free
  | timesOut _ phase _ _ next => exact next ▸ (h.between hp (by simp [phase])).finish rfl _
  | moves phase _ _ next =>
    exact next ▸ (h.holding hp phase).transferChunk phase ((h.producers_ok p hp).cursor_lt phase)

/-- A block whose session and contexts are as reset leaves them has the invariant (R40, R210). -/
theorem inv_of_reset {s : State} (hcfg : s.cfg.wf = true) (hports : s.producers.length = s.cfg.nProd)
    (hS : s.session = Session.reset) (hP : ∀ p, p < s.producers.length →
      ∃ port : List Request, (∀ r ∈ port, Memory.wf r.pay = true) ∧
        s.producer p = { Producer.reset with port := port }) : s.Inv := by
  refine .of_ports hcfg hports (hS ▸ reset_shape s.cfg) (fun q hq => ?_) fun p hp => ?_
  · simp [hS, Session.reset] at hq
  · obtain ⟨port, canonical, e⟩ := hP p hp
    have idle : (s.producer p).phase = .idle := by rw [e]; rfl
    refine ⟨?_, fun hactive => absurd idle hactive, ?_⟩
    · simp [idle, hS, Session.reset]
    · rw [e]
      exact (reset_contents s.cfg canonical).inv_of_idle rfl rfl

/-- R210, R211: the reset input leaves the invariant. -/
theorem State.Inv.assertReset {s : State} (h : s.Inv) : (s.assertReset).Inv := by
  refine inv_of_reset h.config (by simpa using h.ports) rfl fun p hp => ?_
  have hp : p < s.producers.length := by simpa using hp
  refine ⟨(s.producer p).port, (h.producers_ok p hp).port_canonical, ?_⟩
  simp [State.producer, List.getD_eq_getElem?_getD, List.getElem?_eq_getElem hp]

/-- R38: every step keeps the invariant. -/
theorem step_inv {s t : State} (h : s.Inv) (hs : step s = .next t) : t.Inv := by
  obtain ⟨_, rfl⟩ | ⟨p, _, hp, hstep⟩ := step_cases hs
  · exact (h.congr (t := s.moveTaken) rfl rfl rfl).assertReset
  · exact hstep.inv (h.congr (t := s.scheduled p) rfl rfl rfl) hp rfl

/-- R7, R8, R172: the configuration at reset is one the spec admits, whatever its open constants are. -/
theorem atReset_wf : Config.atReset.wf = true := by
  simp [Config.wf, Config.atReset, Config.openCodes.distinct, Config.openPattern.wf]

end Sys2Proof.Machine

/-! ## The obligations -/

open Sys2Proof.Machine

/-- Settles O46: the issue step by the inversion of `exec`, the sequencer's steps through the states in
which a producer is between frames or holds the lock. -/
theorem stepKeepsInvariant : Obligations.StepKeepsInvariant := fun _ _ h hs => step_inv h hs

/-- Settles O54: a step is the reset input or local to one producer. -/
theorem configurationNeverChanges : Obligations.ConfigurationNeverChanges := fun _ _ hs => step_cfg hs

/-- Settles O55: a step of the sequencer keeps the sources of its producer. -/
theorem transferStepsKeepSources : Obligations.TransferStepsKeepSources := by
  intro s t p hmove hactive hs
  obtain ⟨hreset, _⟩ | ⟨q, hrun, _, hstep⟩ := step_cases hs
  · simp [hmove] at hreset
  · obtain rfl : p = q := Move.run.inj (hmove.symm.trans hrun)
    obtain ⟨sources, rxCap, opened⟩ := StepsTo.keepsSources (s := s.scheduled p) hactive hstep
    simp only [Producer.sources, producer_scheduled, Prod.mk.injEq] at sources
    obtain ⟨pay, hdr, hdrLen, pat, op⟩ := sources
    exact ⟨pay, hdr, hdrLen, pat, op, rxCap, opened⟩

/-- Settles O47: a block of idle producers with no session, under a configuration the spec admits. -/
theorem resetHasInvariant : Obligations.ResetHasInvariant := by
  refine inv_of_reset atReset_wf rfl rfl fun p hp => ⟨[], by simp, ?_⟩
  exact List.getD_replicate _ (by simpa [State.reset] using hp)

/-- Settles O49: the fields as R40 and R7 name them; every producer is a copy of the reset context. -/
theorem resetLeavesNoSession : Obligations.ResetLeavesNoSession := by
  refine ⟨rfl, rfl, rfl, rfl, rfl, rfl, rfl, rfl, fun P hP => ?_, rfl, rfl, rfl, rfl⟩
  obtain rfl : P = Producer.reset := List.eq_of_mem_replicate hP
  exact ⟨rfl, rfl⟩

end

section
/-! SUPPORT. The whole of a `send` frame (R61, R128, R129): what one answered chunk step does, the bytes it
takes from the frame, and the induction over the chunks that are left. -/

namespace Sys2Proof.Machine

/-! ## How many chunks a frame needs (R12, R61) -/

theorem ceilDiv_pos {a b : Nat} (ha : 0 < a) (hb : 0 < b) : 0 < ceilDiv a b :=
  Nat.div_pos (by omega) hb

/-- What fits one chunk needs no second one. -/
theorem ceilDiv_eq_one {a b : Nat} (ha : 0 < a) (h : a ≤ b) : ceilDiv a b = 1 :=
  Nat.div_eq_of_lt_le (by omega) (by omega)

/-- A full chunk is one of those still to move. -/
theorem ceilDiv_eq_succ {a b : Nat} (ha : 0 < a) (hb : 0 < b) (h : b ≤ a) :
    ceilDiv a b = ceilDiv (a - b) b + 1 := by
  have sum : a + b - 1 = a - b + b - 1 + b := by omega
  rw [ceilDiv, ceilDiv, sum, Nat.add_div_right _ hb]

/-! ## The bytes of a frame (R14, R139) -/

/-- What is left of a frame is a chunk as long as the rest. -/
theorem remaining_eq_chunkData (P : Producer) : P.remaining = P.chunkData (P.total - P.cursor) := by
  unfold Producer.remaining Producer.chunkData
  cases P.src with
  | hdr => exact List.drop_take
  | pay => rfl
  | pat => exact List.drop_take

/-- A dense space read in two parts. -/
theorem memRead_add (buf : List Byte) (a k m : Nat) :
    memRead buf a (k + m) = memRead buf a k ++ memRead buf (a + k) m := by
  rw [memRead, memRead, memRead, List.take_add, List.drop_drop]

/-- `PAY` read in two parts. -/
theorem Memory.readBytes_add (m : Memory) (a k j : Nat) :
    m.readBytes a (k + j) = m.readBytes a k ++ m.readBytes (a + k) j := by
  simp [Memory.readBytes, List.range_add, Nat.add_assoc]

/-- The bytes at the cursor are a chunk and then the bytes at the cursor moved past it. -/
theorem chunkData_add (P : Producer) (k m : Nat) (win : List Byte) :
    P.chunkData (k + m) =
      P.chunkData k ++ ({ P with cursor := P.cursor + k, win := win } : Producer).chunkData m := by
  unfold Producer.chunkData
  cases P.src with
  | hdr => exact memRead_add ..
  | pay => exact Memory.readBytes_add ..
  | pat => exact memRead_add ..

/-- What is left of a frame is its next chunk and then what is left once the cursor has moved past it. -/
theorem remaining_eq_append (P : Producer) {k : Nat} (win : List Byte) (h : P.cursor + k ≤ P.total) :
    P.remaining =
      P.chunkData k ++ ({ P with cursor := P.cursor + k, win := win } : Producer).remaining := by
  have sum : P.total - P.cursor = k + (P.total - (P.cursor + k)) := by omega
  rw [remaining_eq_chunkData, remaining_eq_chunkData, sum, chunkData_add P k _ win]

/-- R38 (e): the source of a `send` holds the whole frame, so a chunk within it has its full size. -/
theorem Producer.Inv.length_chunkData {c : Config} {rxCap k : Nat} {P : Producer} (h : P.Inv c rxCap)
    (hx : P.phase ≠ .idle) (hd : P.dir = .send) (hk : P.cursor + k ≤ P.total) : (P.chunkData k).length = k := by
  unfold Producer.chunkData
  split
  · next hsrc =>
    have := h.hdr_frame hx hd hsrc
    have := h.hdrLen_le
    have := h.hdrBytes
    exact length_memRead _ _ _ (by omega)
  · exact Memory.length_readBytes ..
  · next hsrc => exact length_memRead _ _ _ (hk.trans (h.pat_frame hx hd hsrc).le)

/-! ## One answered chunk step (R128) -/

/-- R7: `MAX_CHUNK` is at least one. -/
theorem State.Inv.maxChunk_pos {s : State} (h : s.Inv) : 0 < s.cfg.maxChunk := by
  have config := h.config
  simp only [Config.wf, Bool.and_eq_true, decide_eq_true_eq] at config
  omega

/-- R61: a frame that is moving has a chunk to move, and the chunk lies within the frame. -/
theorem State.Inv.chunkSize_pos {s : State} {p : Nat} (h : s.Inv) (hp : p < s.producers.length)
    (hx : (s.producer p).phase = .xfer) : 0 < s.chunkSize p :=
  lt_min (Nat.sub_pos_of_lt ((h.producers_ok p hp).cursor_lt hx)) h.maxChunk_pos

theorem State.Inv.cursor_add_chunkSize_le {s : State} {p : Nat} (h : s.Inv) (hp : p < s.producers.length) :
    (s.producer p).cursor + s.chunkSize p ≤ (s.producer p).total := by
  have := (h.producers_ok p hp).cursor_le
  unfold State.chunkSize chunkBytes
  omega

/-- A transfer that the channel answers with the bytes `rx`, recorded in the trace; the frame has yet to
take note of it. -/
def State.answered (s : State) (p : Nat) (rx : List Byte) : State :=
  (s.channelTaken).emit (.xfer p (s.chunkKind p) (s.chunkTx p) (s.chunkRx p rx) .ok)

@[simp] theorem answered_env (s : State) (p : Nat) (rx : List Byte) :
    (s.answered p rx).env = (s.channelTaken).env := rfl

theorem transferChunk_of_ok {s : State} {p : Nat} {rx : List Byte}
    (h : s.channelAnswer (s.chunkSize p) = .ok rx) :
    s.transferChunk p = (s.answered p rx).chunkDone p (s.chunkSize p) rx := by
  simp only [State.transferChunk, State.answered, h]

/-- A producer that moves a frame, scheduled on a channel that answers `OK`, moves its next chunk. -/
theorem step_of_ok {s : State} {p : Nat} (h : s.Inv) (hp : p < s.producers.length)
    (hx : (s.producer p).phase = .xfer) (hmove : s.nextMove = .run p) {bytes : List Byte}
    {others : List XferAnswer} (hok : s.env.channel = .ok bytes :: others) :
    ∃ rx : List Byte, rx.length = s.chunkSize p ∧
      step s = .next (((s.scheduled p).answered p rx).chunkDone p (s.chunkSize p) rx) := by
  have owner : (s.scheduled p).session.lockOwner = some p := (h.xfer_iff_owner p hp).mp hx
  have some_left : (s.scheduled p).chunkSize p ≠ 0 := (h.chunkSize_pos hp hx).ne'
  have hphase : ((s.scheduled p).producer p).phase = .xfer := hx
  obtain ⟨rx, answer⟩ : ∃ rx, (s.scheduled p).channelAnswer (s.chunkSize p) = .ok rx := by
    simp [State.channelAnswer, hok, fitAnswer]
  refine ⟨rx, channelAnswer_length answer, ?_⟩
  rw [step_run hmove hp, producerStep_xfer hphase, State.chunkStep, if_neg (not_not.mpr owner), if_neg some_left,
    transferChunk_of_ok answer]
  rfl

@[simp] theorem storeChunk_env (s : State) (p : Nat) (rx : List Byte) : (s.storeChunk p rx).env = s.env := by
  unfold State.storeChunk
  split
  · split <;> rfl
  · rfl

/-- A chunk of which the frame has taken note: stored, and the cursor moved past it. -/
def State.advanced (s : State) (p k : Nat) (rx : List Byte) : State :=
  (s.storeChunk p rx).setProducer p fun P => { P with cursor := P.cursor + k }

theorem advanced_localTo (s : State) (p k : Nat) (rx : List Byte) : s.LocalTo p (s.advanced p k rx) :=
  (storeChunk_localTo s p rx).trans (setProducer_localTo _ p _)

@[simp] theorem advanced_env (s : State) (p k : Nat) (rx : List Byte) : (s.advanced p k rx).env = s.env := by
  simp [State.advanced]

/-- The last chunk of a frame ends it. -/
theorem chunkDone_last {s : State} {p k : Nat} (rx : List Byte)
    (h : (s.producer p).cursor + k = (s.producer p).total) :
    s.chunkDone p k rx = (s.advanced p k rx).frameDone p := if_pos h

/-- Every other chunk leaves the frame in progress. -/
theorem chunkDone_middle {s : State} {p k : Nat} (rx : List Byte)
    (h : (s.producer p).cursor + k ≠ (s.producer p).total) :
    s.chunkDone p k rx = s.advanced p k rx := if_neg h

/-- Of its producer a chunk changes the cursor and the capture window alone. -/
theorem producer_advanced_self (s : State) {p : Nat} (k : Nat) (rx : List Byte) (hp : p < s.producers.length) :
    ∃ win, (s.advanced p k rx).producer p =
      { s.producer p with cursor := (s.producer p).cursor + k, win := win } := by
  have in_block : p < (s.storeChunk p rx).producers.length := (storeChunk_localTo s p rx).ports ▸ hp
  rw [State.advanced, producer_setProducer_self _ p _ in_block, producer_storeChunk_self s rx hp]
  exact ⟨_, rfl⟩

/-- The operation of producer `p` has ended with `Ok`, and the lock is free. -/
structure State.Ended (s : State) (p : Nat) : Prop where
  free : s.session.lockOwner = none
  phase : (s.producer p).phase = .idle
  result : (s.producer p).result = .ok

/-- The last chunk of a `send` with no payload to follow ends its operation. -/
theorem chunkDone_ended {s : State} {p k : Nat} (rx : List Byte) (hp : p < s.producers.length)
    (hd : (s.producer p).dir = .send) (hpend : (s.producer p).payPending = false)
    (whole : (s.producer p).cursor + k = (s.producer p).total) : (s.chunkDone p k rx).Ended p := by
  have in_block : p < (s.advanced p k rx).producers.length := (advanced_localTo s p k rx).ports ▸ hp
  obtain ⟨win, moved⟩ := producer_advanced_self s k rx hp
  rw [chunkDone_last rx whole]
  refine ⟨frameDone_lockOwner _ p, ?_, ?_⟩ <;>
    rw [frameDone_send_last _ p (by rw [moved]; exact hd) (by rw [moved]; exact hpend), State.returnOk, State.finish,
      producer_setProducer_self _ p _ (by simpa using in_block)]

/-! ## A frame that is being sent, chunk by chunk -/

/-- Producer `p` of a good block is sending the last frame of its operation. -/
structure State.Sends (s : State) (p : Nat) : Prop where
  inv : s.Inv
  in_block : p < s.producers.length
  phase : (s.producer p).phase = .xfer
  dir : (s.producer p).dir = .send
  last_frame : (s.producer p).payPending = false

theorem State.Sends.unsent {s : State} {p : Nat} (h : s.Sends p) :
    0 < (s.producer p).total - (s.producer p).cursor :=
  Nat.sub_pos_of_lt ((h.inv.producers_ok p h.in_block).cursor_lt h.phase)

/-- The events are transfers by `p` that carry `bytes`, all but the last of `maxChunk` bytes, none empty or
larger (R61). -/
structure Chunked (p maxChunk : Nat) (bytes : List Byte) (events : List Event) : Prop where
  sized : ∀ e ∈ events, e.transferOf = some p ∧ 0 < e.sent.length ∧ e.sent.length ≤ maxChunk
  full : ∀ e ∈ events.dropLast, e.sent.length = maxChunk
  whole : wireBytes events = bytes

theorem Chunked.single {p maxChunk : Nat} {e : Event} (owner : e.transferOf = some p)
    (pos : 0 < e.sent.length) (le : e.sent.length ≤ maxChunk) : Chunked p maxChunk e.sent [e] where
  sized := by simp [owner, pos, le]
  full := by simp
  whole := by simp [wireBytes]

theorem Chunked.cons {p maxChunk : Nat} {e : Event} {bytes : List Byte} {events : List Event}
    (owner : e.transferOf = some p) (pos : 0 < maxChunk) (full : e.sent.length = maxChunk)
    (h : Chunked p maxChunk bytes events) : Chunked p maxChunk (e.sent ++ bytes) (e :: events) where
  sized := List.forall_mem_cons.mpr ⟨⟨owner, full ▸ pos, full.le⟩, h.sized⟩
  full e' he' := by
    cases events with
    | nil => simp at he'
    | cons e₂ rest =>
      rcases List.mem_cons.mp he' with rfl | hrest
      · exact full
      · exact h.full e' hrest
  whole := by rw [← h.whole]; simp [wireBytes]

/-- What the step that moves a chunk of the frame comes to: the end of the operation, or a full chunk after
which the frame is still being sent, with one move and one answer fewer to come. -/
inductive State.SendsTo (s : State) (p : Nat) (t : State) : Prop where
  | ends (whole : (s.producer p).cursor + s.chunkSize p = (s.producer p).total) (ended : t.Ended p)
  | goesOn (full : s.chunkSize p = s.cfg.maxChunk)
      (more : (s.producer p).cursor + s.chunkSize p < (s.producer p).total) (sends : t.Sends p)
      (cfg : t.cfg = s.cfg) (agenda : t.env.agenda = s.env.agenda.tail)
      (channel : t.env.channel = s.env.channel.tail)
      (context : ∃ win, t.producer p =
        { s.producer p with cursor := (s.producer p).cursor + s.chunkSize p, win := win })

/-- A sender scheduled on a channel that answers `OK` puts its next chunk on the wire. -/
theorem State.Sends.step {s : State} {p : Nat} (h : s.Sends p) (hmove : s.nextMove = .run p)
    {bytes : List Byte} {others : List XferAnswer} (hok : s.env.channel = .ok bytes :: others) :
    ∃ (t : State) (e : Event), step s = .next t ∧ t.trace = s.trace ++ [e] ∧ e.transferOf = some p ∧
      e.sent = (s.producer p).chunkData (s.chunkSize p) ∧ s.SendsTo p t := by
  obtain ⟨rx, _, hstep⟩ := step_of_ok h.inv h.in_block h.phase hmove hok
  have handed : s.chunkTx p = some ((s.producer p).chunkData (s.chunkSize p)) := by
    simp [State.chunkTx, h.dir]
  refine ⟨_, .xfer p (s.chunkKind p) (s.chunkTx p) (s.chunkRx p rx) .ok, hstep, chunkDone_trace .., rfl, ?_, ?_⟩
  · simp [Event.sent, handed]
  · by_cases whole : (s.producer p).cursor + s.chunkSize p = (s.producer p).total
    · refine .ends whole (chunkDone_ended (s := (s.scheduled p).answered p rx) rx h.in_block h.dir ?_ whole)
      exact h.last_frame
    · have within := h.inv.cursor_add_chunkSize_le h.in_block
      have full : s.chunkSize p = s.cfg.maxChunk := by
        unfold State.chunkSize chunkBytes at *
        omega
      have inv := step_inv h.inv hstep
      rw [chunkDone_middle (s := (s.scheduled p).answered p rx) rx whole] at inv ⊢
      have l := advanced_localTo ((s.scheduled p).answered p rx) p (s.chunkSize p) rx
      obtain ⟨win, moved⟩ := producer_advanced_self ((s.scheduled p).answered p rx) (s.chunkSize p) rx h.in_block
      refine .goesOn full (lt_of_le_of_ne within whole) ⟨inv, l.ports ▸ h.in_block, ?_, ?_, ?_⟩ l.cfg l.agenda
        (by simp) ⟨win, moved⟩ <;> rw [moved]
      · exact h.phase
      · exact h.dir
      · exact h.last_frame

/-- A run whose first step answers a next state goes on from there. -/
theorem run_succ {M : Host.Core} {s t : M.State} (n : Nat) (h : M.step s = .next t) :
    M.run (n + 1) s = M.run n t := by
  simp [Host.Core.run, h]

/-- R61, R129: the rest of the frame goes out in as many chunks as it needs, and its operation ends. -/
theorem State.Sends.run {p : Nat} {more : List Move} {others : List XferAnswer} {oks : List (List Byte)}
    {s : State} (h : s.Sends p)
    (count : oks.length = ceilDiv ((s.producer p).total - (s.producer p).cursor) s.cfg.maxChunk)
    (agenda : s.env.agenda = List.replicate oks.length (.run p) ++ more)
    (channel : s.env.channel = oks.map .ok ++ others) :
    ∃ (t : State) (events : List Event), Host.Core.run Sys2Proof.core oks.length s = .next t ∧
      t.trace = s.trace ++ events ∧ events.length = oks.length ∧
      Chunked p s.cfg.maxChunk (s.producer p).remaining events ∧ t.Ended p := by
  induction oks generalizing s with
  | nil => exact absurd count (ceilDiv_pos h.unsent h.inv.maxChunk_pos).ne
  | cons bytes oks ih =>
    have unsent := h.unsent
    have hmax := h.inv.maxChunk_pos
    have within := h.inv.cursor_add_chunkSize_le h.in_block
    have size_pos := h.inv.chunkSize_pos h.in_block h.phase
    have size_le : s.chunkSize p ≤ s.cfg.maxChunk := Nat.min_le_right _ _
    have hmove : s.nextMove = .run p := by simp [State.nextMove, agenda, List.replicate_succ]
    obtain ⟨t, e, hstep, htrace, owner, sent, next⟩ := h.step hmove channel
    have hlen : e.sent.length = s.chunkSize p := by
      rw [sent]
      exact (h.inv.producers_ok p h.in_block).length_chunkData (by simp [h.phase]) h.dir within
    rw [List.length_cons, run_succ (M := Sys2Proof.core) _ hstep]
    cases next with
    | ends whole ended =>
      obtain rfl : oks = [] := by
        have one := ceilDiv_eq_one unsent (b := s.cfg.maxChunk) (by omega)
        simpa using count.trans one
      refine ⟨t, [e], rfl, htrace, rfl, ?_, ended⟩
      have rest : (s.producer p).total - (s.producer p).cursor = s.chunkSize p := by omega
      rw [remaining_eq_chunkData, rest, ← sent]
      exact .single owner (by omega) (by omega)
    | goesOn full unfinished sends cfg agenda' channel' context =>
      obtain ⟨win, moved⟩ := context
      have left : (s.producer p).total - (s.producer p).cursor - s.cfg.maxChunk =
          (t.producer p).total - (t.producer p).cursor := by
        rw [moved, ← full]
        exact Nat.sub_sub ..
      have count' : oks.length = ceilDiv ((t.producer p).total - (t.producer p).cursor) t.cfg.maxChunk := by
        rw [ceilDiv_eq_succ unsent hmax (by omega), left, ← cfg] at count
        exact Nat.succ.inj count
      obtain ⟨u, events, hrun, htrace', hcount, chunked, ended⟩ := ih sends count'
        (by simp [agenda', agenda, List.replicate_succ]) (by simp [channel', channel])
      refine ⟨u, e :: events, hrun, by simp [htrace', htrace], by simp [hcount], ?_, ended⟩
      rw [remaining_eq_append _ win within, ← sent, ← moved]
      exact (cfg ▸ chunked).cons owner hmax (hlen.trans full)

end Sys2Proof.Machine

/-! ## The obligation -/

open Sys2Proof.Machine

/-- Settles O42: a sender under these conditions moves one chunk after the other, by induction over the
answers. -/
theorem frameMovesWhole : Obligations.FrameMovesWhole := by
  intro s p n oks more others inv hp phase dir last_frame count agenda channel answers
  subst answers
  obtain ⟨t, events, hrun, htrace, hlen, chunked, ended⟩ :=
    State.Sends.run ⟨inv, hp, phase, dir, last_frame⟩ count agenda channel
  exact ⟨t, events, hrun, htrace, hlen, chunked.sized, chunked.full, chunked.whole, ended.free, ended.phase,
    ended.result⟩

end

section
/-! SUPPORT. The host port's request read back (R96, R97; operand layout: log 6): what each operand reader
returns on the bytes its encoder wrote, then the operands of every operation, then the whole request. -/

namespace Sys2Proof

/-! ## Bytes of a `u16` -/

/-- R11: `le16` is the low byte, then the high byte. -/
theorem le16_eq_extract (v : U16) : le16 v = [v.extractLsb' 0 8, v.extractLsb' 8 8] := by
  rw [le16, BitVec.setWidth_ushiftRight_eq_extractLsb, BitVec.setWidth_eq_extractLsb' (by decide)]

@[simp] theorem ofLe16_extract (v : U16) : ofLe16 (v.extractLsb' 0 8) (v.extractLsb' 8 8) = v :=
  calc v.extractLsb' 8 8 ++ v.extractLsb' 0 8
      = v.extractLsb' 0 (8 + 8) := BitVec.extractLsb'_append_extractLsb'_eq_extractLsb' rfl
    _ = v := BitVec.extractLsb'_eq_self

/-! ## Operands -/

/-- A reader that has read something goes on with it. -/
@[simp] theorem ok_bind {ε α β : Type} (a : α) (f : α → Except ε β) : (Except.ok a >>= f) = f a := rfl

@[simp] theorem takeByte_cons (b : Byte) (rest : List Byte) : takeByte (b :: rest) = .ok (b, rest) := rfl

@[simp] theorem takeU16_le16 (v : U16) (rest : List Byte) : takeU16 (le16 v ++ rest) = .ok (v, rest) := by
  simp [le16_eq_extract, takeU16]

@[simp] theorem takeBit_encodeBit (b : Bool) (rest : List Byte) : takeBit (encodeBit b :: rest) = .ok (b, rest) := by
  cases b <;> rfl

/-- The groups of seven bits, lowest first: each level of the recursion is one group. -/
theorem takeNat_encodeNatFuel {fuel n : Nat} (h : n < fuel) (rest : List Byte) :
    takeNat (encodeNatFuel fuel n ++ rest) = .ok (n, rest) := by
  induction fuel generalizing n with
  | zero => omega
  | succ fuel ih =>
    by_cases last : n < 128
    · have value : (BitVec.ofNat 8 n).toNat = n := by
        rw [BitVec.toNat_ofNat]
        omega
      simp [encodeNatFuel, takeNat, last, value]
    · have value : (BitVec.ofNat 8 (128 + n % 128)).toNat = 128 + n % 128 := by
        rw [BitVec.toNat_ofNat]
        omega
      have higher : n / 128 < fuel := by omega
      simp [encodeNatFuel, takeNat, last, value, ih higher, Nat.mod_add_div]

@[simp] theorem takeNat_encodeNat (n : Nat) (rest : List Byte) : takeNat (encodeNat n ++ rest) = .ok (n, rest) :=
  takeNat_encodeNatFuel (Nat.lt_succ_self n) rest

@[simp] theorem unfoldInt_foldInt (z : Int) : unfoldInt (foldInt z) = z := by
  cases z with
  | ofNat n => simp [foldInt, unfoldInt]
  | negSucc n =>
    have odd : (2 * n + 1) % 2 = 1 := by omega
    have half : (2 * n + 1) / 2 = n := by omega
    simp [foldInt, unfoldInt, odd, half]

/-- The denominator is laid out less one, so it must not be zero (R111). -/
theorem takeAlpha_encode {alpha : Alpha} (h : alpha.wellFormed = true) (rest : List Byte) :
    takeAlpha (encodeNat (foldInt alpha.num) ++ (encodeNat (alpha.den - 1) ++ rest)) = .ok (alpha, rest) := by
  have den : alpha.den - 1 + 1 = alpha.den := Nat.succ_pred (by simpa [Alpha.wellFormed] using h)
  simp [takeAlpha, den]

@[simp] theorem takeColor_cons (r g b : Byte) (rest : List Byte) :
    takeColor (r :: g :: b :: rest) = .ok (⟨r, g, b⟩, rest) := rfl

/-! ## The request -/

theorem opsel_lt (i : Instr) : opsel i < 18 := by
  cases i <;> simp [opsel]

/-- The selector byte is taken off and chooses the operands (R96, R99). -/
theorem decode_encode_append (i : Instr) (rest : List Byte) :
    decode (encode i ++ rest) = decodeOperands (opsel i) (encodeOperands i ++ rest) := by
  have small := opsel_lt i
  have value : (BitVec.ofNat 8 (opsel i)).toNat = opsel i := by
    rw [BitVec.toNat_ofNat]
    omega
  have reserved : ¬ 32 ≤ opsel i := by omega
  have assigned : ¬ 18 ≤ opsel i := by omega
  simp only [encode, List.cons_append, decode, value, reserved, assigned, if_false]

/-- The operands of R97, operation by operation. -/
theorem decodeOperands_encodeOperands {sizeBits : Nat} {i : Instr} (h : i.wellFormed sizeBits = true)
    (rest : List Byte) : decodeOperands (opsel i) (encodeOperands i ++ rest) = .ok (i, rest) := by
  cases i with
  | fromRGBA r g b alpha => simp [opsel, decodeOperands, encodeOperands, takeAlpha_encode h]
  | initializeSession | lastReceived | deinitializeSession | displayDeinit | miscHwinfo | miscStat => rfl
  | _ => simp [opsel, decodeOperands, encodeOperands]

end Sys2Proof

/-! ## The obligation -/

open Sys2Proof

/-- Settles O1: the selector chooses the operands, and every operand reader undoes its encoder. -/
theorem requestDecodesBack : Obligations.RequestDecodesBack := fun _ i rest wellFormed =>
  (decode_encode_append i rest).trans (decodeOperands_encodeOperands wellFormed rest)

end

section
/-! SUPPORT. The wire read back (R80 to R95, R100): the two header bytes select a command, the record of that
command reads back, and with both the stream and the list of frames by induction over the messages. -/

namespace Sys2Proof

/-! ## The two header bytes (R81, R83) -/

/-- The category byte of a command (R83). -/
def WireCommand.category (c : WireCodes) : WireCommand → Byte
  | .displayInit | .displayDeinit | .displayFlip => c.catHub75
  | .clear | .draw | .blit => c.catFb
  | .hwinfo | .stat => c.catMisc

/-- The opcode byte of a command (R83). -/
def WireCommand.opcode (c : WireCodes) : WireCommand → Byte
  | .displayInit => c.opHub75Init
  | .displayDeinit => c.opHub75Deinit
  | .displayFlip => c.opHub75Flip
  | .clear => c.opFbClear
  | .draw => c.opFbDraw
  | .blit => c.opFbBlit
  | .hwinfo => c.opMiscHwinfo
  | .stat => c.opMiscStat

/-- R100: distinct codes tell every command by its two header bytes; `Ne.symm`, because `selectCommand` compares
the bytes of a later command with the codes of the earlier ones. -/
theorem selectCommand_header {c : WireCodes} (h : c.distinct = true) (k : WireCommand) :
    selectCommand c (k.category c) (k.opcode c) = .ok k := by
  simp only [WireCodes.distinct, Bool.and_eq_true, bne_iff_ne, ne_eq] at h
  cases k <;> simp [selectCommand, WireCommand.category, WireCommand.opcode, h, Ne.symm]

/-! ## One header frame -/

/-- `record` is the parameter record with which command `k` carries operation `i` (R84 to R91): of the
length of the command's format, and read back to the operation. -/
structure WireCommand.Carries (k : WireCommand) (record : List Byte) (i : Instr) : Prop where
  sized : record.length = k.format.recordLength
  readsBack : readRecord k record = .ok (onWire i)

/-- The command and the record of each of the eight frames. -/
theorem exists_carries {i : Instr} (wire : isWireCommand i = true) :
    ∃ (k : WireCommand) (record : List Byte), k.Carries record i ∧
      ∀ c, headerFrame c i = k.category c :: k.opcode c :: record := by
  cases i with
  | displayInit pin0 pin1 pin2 pin3 width height =>
    exact ⟨.displayInit, [pin0, pin1, pin2, pin3] ++ le16 width ++ le16 height,
      ⟨rfl, by simp [readRecord, le16_eq_extract, onWire]⟩, fun _ => rfl⟩
  | displayDeinit => exact ⟨.displayDeinit, [], ⟨rfl, rfl⟩, fun _ => rfl⟩
  | displayFlip fb => exact ⟨.displayFlip, [fb], ⟨rfl, rfl⟩, fun _ => rfl⟩
  | framebufferClear fb color => exact ⟨.clear, [color.r, color.g, color.b, fb], ⟨rfl, rfl⟩, fun _ => rfl⟩
  | framebufferBlit srcFb dstFb srcX srcY dstX dstY w h =>
    exact ⟨.blit, le16 srcX ++ le16 srcY ++ le16 dstX ++ le16 dstY ++ le16 w ++ le16 h ++ [srcFb, dstFb],
      ⟨rfl, by simp [readRecord, le16_eq_extract, onWire]⟩, fun _ => rfl⟩
  | framebufferDraw fb x y w h payValid =>
    exact ⟨.draw, le16 x ++ le16 y ++ le16 w ++ le16 h ++ [fb],
      ⟨rfl, by simp [readRecord, le16_eq_extract, onWire]⟩, fun _ => rfl⟩
  | miscHwinfo => exact ⟨.hwinfo, [], ⟨rfl, rfl⟩, fun _ => rfl⟩
  | miscStat => exact ⟨.stat, [], ⟨rfl, rfl⟩, fun _ => rfl⟩
  | _ => cases wire

theorem decodeHeader_headerFrame {c : WireCodes} {i : Instr} (hc : c.distinct = true)
    (h : isWireCommand i = true) : decodeHeader c (headerFrame c i) = .ok (onWire i) := by
  obtain ⟨k, record, carries, frame⟩ := exists_carries h
  simp only [frame, decodeHeader, selectCommand_header hc, carries.readsBack]

/-! ## One message -/

/-- `pay_valid` does not enter the length of the payload (R92). -/
@[simp] theorem payloadBytes_onWire (i : Instr) : payloadBytes (onWire i) = payloadBytes i := by
  cases i <;> rfl

/-- A message of the wire: one of the eight commands, with the payload its header announces (R92). -/
structure WireMessage.Legal (m : WireMessage) : Prop where
  command : isWireCommand m.command = true
  payload : m.payload.length = payloadBytes m.command

/-- The message as a reader of the wire has it. -/
def WireMessage.read (m : WireMessage) : WireMessage := { m with command := onWire m.command }

theorem WireMessage.Legal.payload_eq_nil {m : WireMessage} (h : m.Legal) (no_pixels : payloadBytes m.command = 0) :
    m.payload = [] :=
  List.length_eq_zero_iff.mp (h.payload.trans no_pixels)

/-- The next command is read off the front of a stream, whatever follows. -/
theorem WireMessage.Legal.readCommand_append {c : WireCodes} {m : WireMessage} (h : m.Legal)
    (hc : c.distinct = true) (rest : List Byte) :
    readCommand c (headerFrame c m.command ++ (m.payload ++ rest)) = .ok (m.read, rest) := by
  obtain ⟨k, record, carries, frame⟩ := exists_carries h.command
  simp [frame, readCommand, selectCommand_header hc, ← carries.sized, carries.readsBack, ← h.payload,
    WireMessage.read]

/-! ## The stream and the list of frames -/

/-- The bytes of a sequence of messages, with no delimiter between them. -/
def wireBytes (c : WireCodes) (messages : List WireMessage) : List Byte :=
  (messages.map (messageFrames c)).flatten.flatten

/-- A message without pixels has no payload frame and no payload bytes. -/
theorem wireBytes_cons (c : WireCodes) {m : WireMessage} (h : m.Legal) (messages : List WireMessage) :
    wireBytes c (m :: messages) = headerFrame c m.command ++ (m.payload ++ wireBytes c messages) := by
  by_cases no_pixels : payloadBytes m.command = 0
  · simp [wireBytes, messageFrames, no_pixels, h.payload_eq_nil no_pixels]
  · simp [wireBytes, messageFrames, no_pixels]

/-- Each message takes one unit of the fuel and at least one byte. -/
theorem readStreamFuel_wireBytes {c : WireCodes} (hc : c.distinct = true) {messages : List WireMessage}
    (legal : ∀ m ∈ messages, m.Legal) {fuel : Nat} (enough : (wireBytes c messages).length ≤ fuel) :
    readStreamFuel c fuel (wireBytes c messages) = .ok (messages.map WireMessage.read) := by
  induction messages generalizing fuel with
  | nil => cases fuel <;> rfl
  | cons m messages ih =>
    obtain ⟨first, others⟩ := List.forall_mem_cons.mp legal
    have reads := first.readCommand_append hc (wireBytes c messages)
    obtain ⟨k, record, -, frame⟩ := exists_carries first.command
    rw [wireBytes_cons c first, frame, List.cons_append] at enough ⊢
    rw [frame, List.cons_append] at reads
    cases fuel with
    | zero => cases enough
    | succ fuel =>
      have left := ih others (fuel := fuel) (by
        simp only [List.length_cons, List.length_append] at enough
        omega)
      simp only [readStreamFuel, reads, left, Except.map, List.map_cons]

/-- After a header frame comes the payload frame exactly when the command announces pixels (R92). -/
theorem readFrames_messageFrames {c : WireCodes} (hc : c.distinct = true) {messages : List WireMessage}
    (legal : ∀ m ∈ messages, m.Legal) :
    readFrames c (messages.map (messageFrames c)).flatten = .ok (messages.map WireMessage.read) := by
  induction messages with
  | nil => rfl
  | cons m messages ih =>
    obtain ⟨first, others⟩ := List.forall_mem_cons.mp legal
    have header := decodeHeader_headerFrame hc first.command
    have left := ih others
    by_cases no_pixels : payloadBytes m.command = 0
    · simp [messageFrames, readFrames, header, no_pixels, left, Except.map, WireMessage.read,
        first.payload_eq_nil no_pixels]
    · simp [messageFrames, readFrames, header, no_pixels, left, Except.map, WireMessage.read, first.payload]

end Sys2Proof

/-! ## The obligations -/

open Sys2Proof

/-- Settles O60: from the joined bytes and from the frames, each by induction over the messages. -/
theorem wireStreamReadsBack : Obligations.WireStreamReadsBack := by
  intro c messages hc hm
  have legal : ∀ m ∈ messages, m.Legal := fun m mem =>
    have ⟨command, payload⟩ := hm m mem
    ⟨command, payload⟩
  exact ⟨readStreamFuel_wireBytes hc legal le_rfl, readFrames_messageFrames hc legal⟩

/-- Settles O2: the header bytes select the command, whose record reads back. -/
theorem headerFrameDecodesBack : Obligations.HeaderFrameDecodesBack := fun _ _ hc h => decodeHeader_headerFrame hc h

/-- Settles O3: the frames of R84 to R91, each operand of two bytes written out by R11. -/
theorem headerFrameBytes : Obligations.HeaderFrameBytes := by
  intro c p0 p1 p2 p3 fb srcFb dstFb color a b u v w h valid
  simp [headerFrame, frameDisplayInit, frameDisplayDeinit, frameDisplayFlip, frameClear, frameDraw, frameBlit,
    frameHwinfo, frameStat, le16_eq_extract]

/-- Settles O4: closed words, by evaluation of the decoders. -/
theorem writtenWordsDecode : Obligations.WrittenWordsDecode := by
  unfold Obligations.WrittenWordsDecode
  decide

end

section
/-! SUPPORT. A selector that names no operation (R99): what the port reads, and the answer. -/

namespace Sys2Proof

/-- R99: the two ranges of selectors that name no operation. -/
theorem decodePort_unassigned {hasCapture : Bool} {sel : Byte} (rest : List Byte)
    (h : (18 ≤ sel.toNat ∧ sel.toNat < 32) ∨ (hasCapture = false ∧ 5 ≤ sel.toNat ∧ sel.toNat ≤ 7)) :
    decodePort hasCapture (sel :: rest) = .error (.unassigned (sel.setWidth 5)) := by
  obtain ⟨above, below⟩ | capture := h
  · have no_capture : ¬ (hasCapture = false ∧ 5 ≤ sel.toNat ∧ sel.toNat ≤ 7) := by omega
    have reserved : ¬ 32 ≤ sel.toNat := by omega
    simp only [decodePort, decodeRequest, decode, no_capture, reserved, above, if_true, if_false]
  · simp only [decodePort, capture, and_self, if_true]

end Sys2Proof

namespace Sys2Proof.Machine

/-- Two updates of a producer are one when they agree on its context. -/
theorem setProducer_congr {s : State} {p : Nat} {f g : Producer → Producer} (hp : p < s.producers.length)
    (h : f (s.producer p) = g (s.producer p)) : s.setProducer p f = s.setProducer p g := by
  have context : s.producer p = s.producers[p] := by
    simp [State.producer, List.getD_eq_getElem?_getD, List.getElem?_eq_getElem hp]
  rw [context] at h
  simp only [State.setProducer, List.modify_eq_take_cons_drop hp, h]

/-- An idle producer whose selector is rejected stays idle: only its port and its answer change. -/
theorem rejectSelector_eq {s : State} {p : Nat} {req : Request} {more : List Request}
    (hp : p < s.producers.length) (phase : (s.producer p).phase = .idle)
    (port : (s.producer p).port = req :: more) :
    s.rejectSelector p = s.setProducer p fun P =>
      { P with port := more, result := .invalidArgument, value := .nothing } := by
  rw [State.rejectSelector, State.raise, State.finish, setProducer_setProducer]
  exact setProducer_congr hp (by simp [phase, port])

end Sys2Proof.Machine

/-! ## The obligation -/

open Sys2Proof Sys2Proof.Machine

/-- Settles O6: the step is the issue step of an idle producer, whose selector the port rejects. -/
theorem unassignedSelectorAnswers : Obligations.UnassignedSelectorAnswers := by
  intro s p req more sel rest hmove hp phase port words unassigned
  have rejected : decodePort (s.scheduled p).cfg.hasCapture req.words = .error (.unassigned (sel.setWidth 5)) := by
    rw [words]
    exact decodePort_unassigned rest unassigned
  rw [step_run hmove hp, producerStep_idle (by simpa using phase)]
  calc issueStep (s.scheduled p) p
      = .next ((s.scheduled p).rejectSelector p) := by simp only [issueStep, producer_scheduled, port, rejected]
    _ = _ := by rw [rejectSelector_eq (by simpa using hp) (by simpa using phase) (by simpa using port)]

end

section
/-! SUPPORT. The Color Model (R110 to R115): the answer of each operation, the arithmetic of `fromRGBA` over the
rationals, and the default HSV routine region by region. -/

namespace Sys2Proof.Machine

/-! ## The answers (R110 to R112, R115) -/

/-- R110: the end of `fromRGB`, its answer written out. -/
theorem exec_fromRGB (r g b : Byte) (s : State) :
    exec (.fromRGB r g b) s = .next (s.setProducer s.cur fun P =>
      { P with phase := .idle, result := .ok, value := .color ⟨r, g, b⟩ }) := rfl

/-- R111: the end of `fromRGBA`, its answer written out. -/
theorem exec_fromRGBA (r g b : Byte) (alpha : Alpha) (s : State) :
    exec (.fromRGBA r g b alpha) s = .next (s.setProducer s.cur fun P =>
      { P with
        phase := .idle, result := .ok
        value := .color ⟨scaleChannel r alpha, scaleChannel g alpha, scaleChannel b alpha⟩ }) := rfl

/-- R112: the end of `fromHSV`, its answer written out. -/
theorem exec_fromHSV (hue sat val : Byte) (s : State) :
    exec (.fromHSV hue sat val) s = .next (s.setProducer s.cur fun P =>
      { P with phase := .idle, result := .ok, value := .color (hsvFn s.cfg hue sat val) }) := rfl

/-- R96: the selectors up to `0x02` are those of the Color Model. -/
theorem colorOp_of_opsel_le {i : Instr} (h : opsel i ≤ 0x02) :
    (∃ r g b, i = .fromRGB r g b) ∨ (∃ r g b alpha, i = .fromRGBA r g b alpha) ∨
      ∃ hue sat val, i = .fromHSV hue sat val := by
  cases i with
  | fromRGB r g b => exact .inl ⟨r, g, b, rfl⟩
  | fromRGBA r g b alpha => exact .inr (.inl ⟨r, g, b, alpha, rfl⟩)
  | fromHSV hue sat val => exact .inr (.inr ⟨hue, sat, val, rfl⟩)
  | _ => simp [opsel] at h

/-! ## Scaling a channel (R111) -/

/-- R111's rounding of a rational: to the nearest integer, ties away from zero. -/
def roundRat (y : ℚ) : ℤ := if 0 ≤ y then ⌊y + 1 / 2⌋ else -⌊-y + 1 / 2⌋

/-- R111's saturation of an integer to `0 .. 255`. -/
def saturate (n : ℤ) : ℤ := if n < 0 then 0 else if 255 < n then 255 else n

/-- Adding one half before the floor, in whole numbers. -/
theorem floor_div_add_half (num : ℤ) {den : ℕ} (pos : 0 < den) :
    ⌊(num : ℚ) / den + 1 / 2⌋ = (2 * num + den) / (2 * den) := by
  have common : (num : ℚ) / den + 1 / 2 = ((2 * num + den : ℤ) : ℚ) / ((2 * den : ℕ) : ℚ) := by
    push_cast
    field_simp
  rw [common, Rat.floor_intCast_div_natCast, Nat.cast_mul, Nat.cast_ofNat]

/-- The model rounds the fraction as R111 rounds the rational it denotes. -/
theorem roundHalfAway_eq_roundRat (num : ℤ) {den : ℕ} (pos : 0 < den) :
    roundHalfAway num den = roundRat ((num : ℚ) / den) := by
  have sign : 0 ≤ (num : ℚ) / den ↔ 0 ≤ num := by
    rw [le_div_iff₀ (by exact_mod_cast pos), zero_mul, Int.cast_nonneg_iff]
  have opposite : -((num : ℚ) / den) = ((-num : ℤ) : ℚ) / den := by
    rw [Int.cast_neg, neg_div]
  simp only [roundHalfAway, roundRat, sign, opposite, floor_div_add_half _ pos]

theorem toNat_clampByte (n : ℤ) : ((clampByte n).toNat : ℤ) = saturate n := by
  unfold clampByte saturate
  split_ifs with below above
  · rfl
  · rfl
  · rw [BitVec.toNat_ofNat]
    omega

/-- R111 for one channel: the exact product, rounded, saturated. -/
theorem toNat_scaleChannel (c : Byte) {alpha : Alpha} (h : alpha.wellFormed = true) :
    ((scaleChannel c alpha).toNat : ℤ) = saturate (roundRat (c.toNat * (alpha.num / alpha.den))) := by
  have pos : 0 < alpha.den := Nat.pos_of_ne_zero (by simpa [Alpha.wellFormed] using h)
  have product : (((c.toNat : ℤ) * alpha.num : ℤ) : ℚ) / alpha.den = c.toNat * (alpha.num / alpha.den) := by
    push_cast
    rw [mul_div_assoc]
  rw [scaleChannel, toNat_clampByte, roundHalfAway_eq_roundRat _ pos, product]

@[simp] theorem roundRat_natCast (n : ℕ) : roundRat n = n := by
  rw [roundRat, if_pos n.cast_nonneg, Int.floor_natCast_add]
  norm_num

theorem roundRat_nonpos {y : ℚ} (h : y ≤ 0) : roundRat y ≤ 0 := by
  unfold roundRat
  split_ifs with nonneg
  · rw [le_antisymm h nonneg]
    norm_num
  · exact neg_nonpos.mpr (Int.floor_nonneg.mpr (by linarith))

theorem saturate_toNat (c : Byte) : saturate c.toNat = c.toNat := by
  have := c.isLt
  unfold saturate
  split_ifs <;> omega

theorem saturate_nonpos {n : ℤ} (h : n ≤ 0) : saturate n = 0 := by
  unfold saturate
  split_ifs <;> omega

/-- R111 (a): a channel scaled by one. -/
theorem scaleChannel_one (c : Byte) {alpha : Alpha} (h : alpha.wellFormed = true)
    (one : alpha.num = (alpha.den : ℤ)) : scaleChannel c alpha = c := by
  have nonzero : (alpha.den : ℚ) ≠ 0 := by simpa [Alpha.wellFormed] using h
  have ratio : (alpha.num : ℚ) / alpha.den = 1 := by
    rw [one, Int.cast_natCast, div_self nonzero]
  have scaled := toNat_scaleChannel c h
  rw [ratio, mul_one, roundRat_natCast, saturate_toNat] at scaled
  exact BitVec.eq_of_toNat_eq (by exact_mod_cast scaled)

/-- R111 (a), (b): a channel scaled by zero or less. -/
theorem scaleChannel_nonpos (c : Byte) {alpha : Alpha} (h : alpha.wellFormed = true) (nonpos : alpha.num ≤ 0) :
    scaleChannel c alpha = 0 := by
  have ratio : (alpha.num : ℚ) / alpha.den ≤ 0 :=
    div_nonpos_of_nonpos_of_nonneg (by exact_mod_cast nonpos) alpha.den.cast_nonneg
  have scaled := toNat_scaleChannel c h
  rw [saturate_nonpos (roundRat_nonpos (mul_nonpos_of_nonneg_of_nonpos c.toNat.cast_nonneg ratio))] at scaled
  exact BitVec.eq_of_toNat_eq (by exact_mod_cast scaled)

/-! ## The default HSV routine (R112, R113) -/

theorem hsvFn_zero_saturation (c : Config) (hue val : Byte) : hsvFn c hue 0 val = ⟨val, val, val⟩ := by
  unfold hsvFn
  split
  · simp [hsvStandard]
  · simp

/-- R113's `p`, `q` and `t`: the value less the share `x` of 256. -/
def dimmed (val : Byte) (x : ℕ) : Byte := BitVec.ofNat 8 (val.toNat * (255 - x) / 256)

/-- R114: no dimmed value overflows its byte. -/
@[simp] theorem toNat_dimmed (val : Byte) (x : ℕ) : (dimmed val x).toNat = val.toNat * (255 - x) / 256 := by
  have product : val.toNat * (255 - x) ≤ 255 * 255 :=
    Nat.mul_le_mul (Nat.le_of_lt_succ val.isLt) (Nat.sub_le _ _)
  rw [dimmed, BitVec.toNat_ofNat]
  omega

/-- R113 (a): the 43 hues of a region. -/
theorem hueRegion_eq {hue : Byte} (k : ℕ) (first : 43 * k ≤ hue.toNat) (last : hue.toNat < 43 * k + 43) :
    hueRegion hue = k := by
  unfold hueRegion
  omega

/-- R113 (a): the place of a hue in its region. -/
theorem sub_hueRegion (hue : Byte) : hue.toNat - hueRegion hue * 43 = hue.toNat % 43 := by
  unfold hueRegion
  omega

/-- R113's table: how a region arranges the value and the three dimmed values `p`, `q`, `t`. -/
def hsvRow (region : ℕ) (v p q t : Byte) : Color :=
  match region with
  | 0 => ⟨v, t, p⟩
  | 1 => ⟨q, v, p⟩
  | 2 => ⟨p, v, t⟩
  | 3 => ⟨p, q, v⟩
  | 4 => ⟨t, p, v⟩
  | _ => ⟨v, p, q⟩

/-- The default routine with a saturation is a row of the table, at the hue's place in its region. -/
theorem hsvFn_eq_hsvRow {cfg : Config} (hue : Byte) {sat : Byte} (val : Byte) (standard : cfg.hsv = .standard)
    (saturated : sat ≠ 0) :
    hsvFn cfg hue sat val = hsvRow (hueRegion hue) val (dimmed val sat.toNat)
      (dimmed val (sat.toNat * (hue.toNat % 43 * 6) / 256))
      (dimmed val (sat.toNat * (255 - hue.toNat % 43 * 6) / 256)) :=
  calc hsvFn cfg hue sat val
      = hsvStandard hue sat val := by rw [hsvFn, standard]
    _ = _ := by
      rw [hsvStandard, if_neg saturated, ← sub_hueRegion]
      rfl

end Sys2Proof.Machine

/-! ## The obligations -/

open Sys2Proof Sys2Proof.Machine

/-- Settles O10: channel by channel, the model's whole-number arithmetic is R111's over the rationals. -/
theorem fromRgbaRoundsExactProduct : Obligations.FromRgbaRoundsExactProduct := fun r g b alpha s h =>
  ⟨scaleChannel r alpha, scaleChannel g alpha, scaleChannel b alpha, toNat_scaleChannel r h,
    toNat_scaleChannel g h, toNat_scaleChannel b h, exec_fromRGBA r g b alpha s⟩

/-- Settles O11: the same three channels scaled by one, and by zero or less. -/
theorem fromRgbaUnitZeroNegative : Obligations.FromRgbaUnitZeroNegative := by
  intro r g b alpha s h
  constructor
  · intro one
    simp only [exec_fromRGBA, exec_fromRGB, scaleChannel_one _ h one]
  · intro nonpos
    simp only [exec_fromRGBA, exec_fromRGB, scaleChannel_nonpos _ h nonpos]

/-- Settles O13: each range of hues is one region, and the bytes of its row hold the dimmed values whole. -/
theorem defaultHsvByRegion : Obligations.DefaultHsvByRegion := by
  intro cfg hue sat val standard saturated
  have below := hue.isLt
  simp only [hsvFn_eq_hsvRow hue val standard saturated]
  refine ⟨fun h => ?_, fun ⟨first, last⟩ => ?_, fun ⟨first, last⟩ => ?_, fun ⟨first, last⟩ => ?_,
    fun ⟨first, last⟩ => ?_, fun first => ?_⟩
  · simp [hueRegion_eq 0 (by omega) h, hsvRow]
  · simp [hueRegion_eq 1 first last, hsvRow]
  · simp [hueRegion_eq 2 first last, hsvRow]
  · simp [hueRegion_eq 3 first last, hsvRow]
  · simp [hueRegion_eq 4 first last, hsvRow]
  · simp [hueRegion_eq 5 first (by omega), hsvRow]

/-- Settles O8: the selector of R96, no frame, and the answer of `fromRGB`. -/
theorem fromRgbAnswersOperands : Obligations.FromRgbAnswersOperands := fun r g b s =>
  ⟨rfl, rfl, exec_fromRGB r g b s⟩

/-- Settles O9: the three operations one by one; only `fromHSV` looks at the configuration. -/
theorem colorOperationsOnlyAnswer : Obligations.ColorOperationsOnlyAnswer := by
  intro i h
  obtain ⟨r, g, b, rfl⟩ | ⟨r, g, b, alpha, rfl⟩ | ⟨hue, sat, val, rfl⟩ := colorOp_of_opsel_le h
  · exact ⟨fun _ => ⟨r, g, b⟩, fun s => ⟨rfl, exec_fromRGB r g b s⟩⟩
  · exact ⟨fun _ => ⟨scaleChannel r alpha, scaleChannel g alpha, scaleChannel b alpha⟩,
      fun s => ⟨rfl, exec_fromRGBA r g b alpha s⟩⟩
  · exact ⟨fun cfg => hsvFn cfg hue sat val, fun s => ⟨rfl, exec_fromHSV hue sat val s⟩⟩

/-- Settles O12: the answer of `fromHSV`, gray without saturation whatever the routine. -/
theorem fromHsvAnswersConfiguredRoutine : Obligations.FromHsvAnswersConfiguredRoutine := fun hue sat val s =>
  ⟨hsvFn s.cfg hue sat val, exec_fromHSV hue sat val s, rfl, fun unsaturated => by
    rw [unsaturated, hsvFn_zero_saturation]⟩

end

section
/-! SUPPORT. The chunk steps of a frame, sent or received (R128): the answer a listed channel gives, the step
with that answer, the state after a chunk field by field, and the chain of chunks that ends a frame. -/

namespace Sys2Proof.Machine

/-! ## One producer of an updated list -/

/-- Two updates of the producers are one when they agree on the context they change. -/
theorem producers_modify_congr {s : State} {p : Nat} {f g : Producer → Producer} (hp : p < s.producers.length)
    (h : f (s.producer p) = g (s.producer p)) : s.producers.modify p f = s.producers.modify p g :=
  congrArg State.producers (setProducer_congr hp h)

/-- The producer whose context an update has changed. -/
theorem producer_of_modify {s t : State} {p : Nat} {f : Producer → Producer}
    (h : t.producers = s.producers.modify p f) (hp : p < s.producers.length) : t.producer p = f (s.producer p) :=
  (producer_congr (s := s.setProducer p f) h p).trans (producer_setProducer_self s p f hp)

/-! ## The channel's answer (R15) -/

/-- A listed answer with bytes is one with bytes, and the listed ones where their number is right. -/
theorem channelAnswer_of_ok {s : State} {bytes : List Byte} {others : List XferAnswer}
    (h : s.env.channel = .ok bytes :: others) (k : Nat) :
    ∃ rx : List Byte, s.channelAnswer k = .ok rx ∧ (bytes.length = k → rx = bytes) := by
  refine ⟨(List.range k).map fun i => bytes.getD i (Config.freeByte s.env.draws i), ?_, ?_⟩
  · simp [State.channelAnswer, h, fitAnswer]
  · rintro rfl
    refine List.ext_getElem (by simp) fun i _ hi => ?_
    simp [List.getElem?_eq_getElem hi]

/-- A listed failure is one, its code reduced to `ERR_BITS` bits. -/
theorem channelAnswer_of_fail {s : State} {code : Nat} {others : List XferAnswer}
    (h : s.env.channel = .fail code :: others) (k : Nat) :
    s.channelAnswer k = .fail (code % 2 ^ s.cfg.errBits) := by
  simp [State.channelAnswer, h, fitAnswer]

/-! ## The chunk step (R128) -/

/-- A scheduled producer in `XFER` that holds the lock and has bytes left makes a transfer. -/
theorem step_of_xfer {s : State} {p : Nat} (hmove : s.nextMove = .run p) (hp : p < s.producers.length)
    (hx : (s.producer p).phase = .xfer) (owner : s.session.lockOwner = some p) (some_left : 0 < s.chunkSize p) :
    step s = .next ((s.scheduled p).transferChunk p) := by
  have left : (s.scheduled p).chunkSize p ≠ 0 := some_left.ne'
  rw [step_run hmove hp, producerStep_xfer (by simpa using hx), State.chunkStep, if_neg (by simpa using owner),
    if_neg left]

/-- The event of a transfer that the channel answers with the bytes `rx`. -/
def State.chunkEvent (s : State) (p : Nat) (rx : List Byte) : Event :=
  .xfer p (s.chunkKind p) (s.chunkTx p) (s.chunkRx p rx) .ok

/-- The state after producer `p` was scheduled and moved a chunk answered with `rx`, before the frame's end
is looked at. -/
def State.moved (s : State) (p : Nat) (rx : List Byte) : State :=
  ((s.scheduled p).answered p rx).advanced p (s.chunkSize p) rx

/-- A good chunk step moves the chunk, and ends the frame if that was the last. -/
theorem step_of_answer {s : State} {p : Nat} {rx : List Byte} (hmove : s.nextMove = .run p)
    (hp : p < s.producers.length) (hx : (s.producer p).phase = .xfer) (owner : s.session.lockOwner = some p)
    (some_left : 0 < s.chunkSize p) (answer : (s.scheduled p).channelAnswer (s.chunkSize p) = .ok rx) :
    step s = .next (if (s.producer p).cursor + s.chunkSize p = (s.producer p).total
      then (s.moved p rx).frameDone p else s.moved p rx) := by
  rw [step_of_xfer hmove hp hx owner some_left, transferChunk_of_ok answer]
  rfl

section
variable (s : State) (p : Nat) (rx : List Byte)

@[simp] theorem moved_cfg : (s.moved p rx).cfg = s.cfg := (advanced_localTo _ p _ rx).cfg

@[simp] theorem moved_length : (s.moved p rx).producers.length = s.producers.length :=
  (advanced_localTo _ p _ rx).ports

@[simp] theorem moved_cur : (s.moved p rx).cur = p := (advanced_localTo _ p _ rx).cur

@[simp] theorem moved_env : (s.moved p rx).env = { s.env with
    agenda := s.env.agenda.tail, channel := s.env.channel.tail, draws := s.env.draws + 2 } :=
  advanced_env ((s.scheduled p).answered p rx) p _ rx

@[simp] theorem moved_trace : (s.moved p rx).trace = s.trace ++ [s.chunkEvent p rx] :=
  storeChunk_trace ((s.scheduled p).answered p rx) p rx

/-- What a moved chunk changes of the producers: the cursor, and the window of a capturing `send`. -/
theorem moved_producers : (s.moved p rx).producers = s.producers.modify p fun Q => { Q with
    cursor := Q.cursor + s.chunkSize p
    win := if (s.producer p).dir = .send ∧ 0 < s.session.rxCap
      then lastN (Q.win ++ rx) s.session.rxCap else Q.win } := by
  have stored : (((s.scheduled p).answered p rx).storeChunk p rx).producers = s.producers.modify p fun Q =>
      { Q with win := if (s.producer p).dir = .send ∧ 0 < s.session.rxCap
          then lastN (Q.win ++ rx) s.session.rxCap else Q.win } := by
    have dir : (((s.scheduled p).answered p rx).producer p).dir = (s.producer p).dir := rfl
    have same : s.producers = s.producers.modify p fun Q => Q := (List.modify_id p s.producers).symm
    unfold State.storeChunk
    rcases hd : (s.producer p).dir with _ | _ <;> rw [dir, hd]
    · by_cases hcap : 0 < s.session.rxCap <;> simp [State.answered, Session.capturing, hcap]
      exact same
    · simpa [State.answered] using same
  rw [State.moved, State.advanced, setProducer_producers, stored, List.modify_modify_eq]
  rfl

/-- The moving producer after its chunk. -/
theorem producer_moved_self (hp : p < s.producers.length) : (s.moved p rx).producer p = { s.producer p with
    cursor := (s.producer p).cursor + s.chunkSize p
    win := if (s.producer p).dir = .send ∧ 0 < s.session.rxCap
      then lastN ((s.producer p).win ++ rx) s.session.rxCap else (s.producer p).win } :=
  producer_of_modify (moved_producers s p rx) hp

/-- A chunk of a `send` leaves the session alone. -/
theorem moved_session_send (hd : (s.producer p).dir = .send) : (s.moved p rx).session = s.session := by
  have dir : (((s.scheduled p).answered p rx).producer p).dir = .send := hd
  rw [State.moved, State.advanced, setProducer_session, State.storeChunk, dir]
  dsimp only
  split <;> rfl

/-- A chunk of a receive is written to `RXB` at the cursor (R139). -/
theorem moved_session_recv (hd : (s.producer p).dir = .recv) : (s.moved p rx).session =
    { s.session with rxBuf := memWrite s.session.rxBuf (s.producer p).cursor rx } := by
  have dir : (((s.scheduled p).answered p rx).producer p).dir = .recv := hd
  rw [State.moved, State.advanced, setProducer_session, State.storeChunk, dir]
  rfl

end

/-! ## The chunks of a frame, to its end -/

/-- Producer `p` moves the rest of its frame from `s` on, one good chunk after the other; `events` are the
transfers and `t` is the state after the frame's end. -/
inductive State.Moves (p : Nat) : State → List Event → State → Prop where
  | last {s : State} {rx : List Byte} (sized : rx.length = s.chunkSize p) (pos : 0 < s.chunkSize p)
      (whole : (s.producer p).cursor + s.chunkSize p = (s.producer p).total) :
      State.Moves p s [s.chunkEvent p rx] ((s.moved p rx).frameDone p)
  | more {s t : State} {rx : List Byte} {events : List Event} (sized : rx.length = s.chunkSize p)
      (pos : 0 < s.chunkSize p) (within : (s.producer p).cursor + s.chunkSize p < (s.producer p).total)
      (rest : State.Moves p (s.moved p rx) events t) : State.Moves p s (s.chunkEvent p rx :: events) t

theorem State.Moves.trace {p : Nat} {s t : State} {events : List Event} (h : State.Moves p s events t) :
    t.trace = s.trace ++ events := by
  induction h with
  | last _ _ _ => simp
  | more _ _ _ _ ih => simp [ih]

/-- R61: no chunk is larger than `MAX_CHUNK`. -/
theorem chunkSize_le (s : State) (p : Nat) : s.chunkSize p ≤ s.cfg.maxChunk := Nat.min_le_right _ _

/-- R61: a chunk that is not the frame's last is full. -/
theorem chunkSize_of_more {s : State} {p : Nat}
    (h : (s.producer p).cursor + s.chunkSize p < (s.producer p).total) : s.chunkSize p = s.cfg.maxChunk := by
  unfold State.chunkSize chunkBytes at *
  omega

/-- R61, R128: in a good block a frame in `XFER`, scheduled on a channel that answers `OK`, moves to its end
in as many chunks as it needs. -/
theorem State.Inv.run_moves {p : Nat} {more : List Move} {others : List XferAnswer} {oks : List (List Byte)}
    {s : State} (h : s.Inv) (hp : p < s.producers.length) (hx : (s.producer p).phase = .xfer)
    (count : oks.length = ceilDiv ((s.producer p).total - (s.producer p).cursor) s.cfg.maxChunk)
    (agenda : s.env.agenda = List.replicate oks.length (.run p) ++ more)
    (channel : s.env.channel = oks.map .ok ++ others) :
    ∃ (t : State) (events : List Event), Host.Core.run Sys2Proof.core oks.length s = .next t ∧
      events.length = oks.length ∧ State.Moves p s events t := by
  have left : 0 < (s.producer p).total - (s.producer p).cursor :=
    Nat.sub_pos_of_lt ((h.producers_ok p hp).cursor_lt hx)
  induction oks generalizing s with
  | nil => exact absurd count (ceilDiv_pos left h.maxChunk_pos).ne
  | cons bytes oks ih =>
    have pos := h.chunkSize_pos hp hx
    have size_le := chunkSize_le s p
    have hmove : s.nextMove = .run p := by simp [State.nextMove, agenda, List.replicate_succ]
    obtain ⟨rx, answer, _⟩ := channelAnswer_of_ok (s := s.scheduled p) channel (s.chunkSize p)
    have hstep := step_of_answer hmove hp hx ((h.xfer_iff_owner p hp).mp hx) pos answer
    have sized := channelAnswer_length answer
    by_cases whole : (s.producer p).cursor + s.chunkSize p = (s.producer p).total
    · obtain rfl : oks = [] := by
        have one := ceilDiv_eq_one left (b := s.cfg.maxChunk) (by omega)
        simpa using count.trans one
      rw [if_pos whole] at hstep
      exact ⟨_, _, run_succ (M := Sys2Proof.core) 0 hstep, rfl, .last sized pos whole⟩
    · rw [if_neg whole] at hstep
      have within := lt_of_le_of_ne (h.cursor_add_chunkSize_le hp) whole
      have full := chunkSize_of_more within
      have self := producer_moved_self s p rx hp
      have count' : oks.length =
          ceilDiv (((s.moved p rx).producer p).total - ((s.moved p rx).producer p).cursor)
            (s.moved p rx).cfg.maxChunk := by
        rw [ceilDiv_eq_succ left h.maxChunk_pos (by omega), Nat.sub_sub, ← full] at count
        rw [self, moved_cfg, ← full]
        exact Nat.succ.inj count
      obtain ⟨t, events, hrun, hlen, moves⟩ := ih (step_inv h hstep) (by simpa using hp) (by rw [self]; exact hx)
        count' (by simp [agenda, List.replicate_succ]) (by simp [channel])
        (by rw [self]; exact Nat.sub_pos_of_lt within)
      exact ⟨t, _, (run_succ (M := Sys2Proof.core) _ hstep).trans hrun, by simp [hlen],
        .more sized pos within moves⟩

end Sys2Proof.Machine

end

section
/-! SUPPORT. What the capture buffer holds once a frame has ended (R26, R128, R129): the window of a `send`, or
the bytes of a receive, each by induction over the frame's chunks. -/

namespace Sys2Proof.Machine

/-! ## The commit of a window (R26, R129) -/

/-- A sequence no longer than the bound has its own length as the bound. -/
theorem lastN_min (s : List Byte) (n : Nat) : lastN s (min s.length n) = lastN s n := by
  simp only [lastN]
  congr 1
  omega

/-- A committed window that fits stands at the start of the buffer. -/
theorem take_committed {buf win : List Byte} (h : win.length ≤ buf.length) (d : Nat) :
    (unspecifiedFrom (memWrite buf 0 win) win.length d).take win.length = win := by
  have fits : win.length ≤ (memWrite buf 0 win).length := by rwa [length_memWrite _ _ _ (by simpa using h)]
  rw [take_unspecifiedFrom _ _ _ fits, memWrite_zero, List.take_left]

theorem length_committed {buf win : List Byte} (h : win.length ≤ buf.length) (d : Nat) :
    (unspecifiedFrom (memWrite buf 0 win) win.length d).length = buf.length := by
  rw [length_unspecifiedFrom, length_memWrite _ _ _ (by simpa using h)]

/-- The capture commit of a non-empty frame on a block with a capture buffer. -/
theorem captured_of_capturing {s : State} {p : Nat} (cap : 0 < s.session.rxCap) (pos : 0 < (s.producer p).total) :
    s.captured p = s.commitWindow p := by
  simp [State.captured, Session.capturing, cap, pos]

/-- There is nothing to commit without a capture buffer. -/
theorem captured_of_no_buffer {s : State} (p : Nat) (cap : s.session.rxCap = 0) : s.captured p = s := by
  simp [State.captured, Session.capturing, cap]

/-- R129: the end of a `send` frame leaves the session as the commit leaves it, the lock free. -/
theorem frameDone_session_send {s : State} {p : Nat} (hd : (s.producer p).dir = .send) :
    (s.frameDone p).session = { (s.captured p).session with lockOwner := none } := by
  rcases hp : (s.producer p).payPending with _ | _
  · rw [frameDone_send_last s p hd hp]; rfl
  · rw [frameDone_send_payload s p hd hp, beginSend_session]; rfl

/-! ## The window of a whole `send` (R128, D16) -/

/-- The capture buffer shows the last of `bytes` that it has room for, oldest first. -/
structure Session.ShowsLast (S : Session) (bytes : List Byte) : Prop where
  rxLen : S.rxLen = min bytes.length S.rxCap
  fresh : S.rxStale = false
  size : S.rxBuf.length = S.rxCap
  shown : S.rxBuf.take S.rxLen = lastN bytes S.rxLen

/-- The end of a frame whose window is the last of `bytes` puts them in the buffer. -/
theorem frameDone_showsLast {s : State} {p : Nat} {bytes : List Byte} (hd : (s.producer p).dir = .send)
    (cap : 0 < s.session.rxCap) (size : s.session.rxBuf.length = s.session.rxCap)
    (pos : 0 < (s.producer p).total) (window : (s.producer p).win = lastN bytes s.session.rxCap) :
    (s.frameDone p).session.ShowsLast bytes := by
  have len : (s.producer p).win.length = min bytes.length s.session.rxCap := by rw [window, length_lastN]
  have fits : (s.producer p).win.length ≤ s.session.rxBuf.length := by omega
  rw [frameDone_session_send hd, captured_of_capturing cap pos, commitWindow_session]
  refine ⟨len, rfl, (length_committed fits _).trans size, ?_⟩
  calc List.take _ _ = (s.producer p).win := take_committed fits _
    _ = lastN bytes (s.producer p).win.length := by rw [len, lastN_min, window]

/-- On a block with a capture buffer the event of a `send` shows what the channel returned (R58). -/
theorem chunkEvent_returned {s : State} {p : Nat} (rx : List Byte) (cap : 0 < s.session.rxCap) :
    (s.chunkEvent p rx).returned = rx := by
  have kind : s.chunkKind p = .txrx ∨ s.chunkKind p = .rx := by
    unfold State.chunkKind
    split <;> simp [Session.capturing, cap]
  rcases kind with kind | kind <;> simp [State.chunkEvent, State.chunkRx, kind, Event.returned]

/-- R128, R129: the rest of a `send` frame takes as many bytes from the channel as are left to move, and the
buffer then shows the last of those in the window at its start and those returned since. -/
theorem State.Moves.captures {p : Nat} {s t : State} {events : List Event} (h : State.Moves p s events t)
    (hp : p < s.producers.length) (hd : (s.producer p).dir = .send) (cap : 0 < s.session.rxCap)
    (size : s.session.rxBuf.length = s.session.rxCap) :
    t.session.rxCap = s.session.rxCap ∧
      ((events.map Event.returned).flatten).length = (s.producer p).total - (s.producer p).cursor ∧
      ∀ seen : List Byte, (s.producer p).win = lastN seen s.session.rxCap →
        t.session.ShowsLast (seen ++ (events.map Event.returned).flatten) := by
  induction h with
  | @last s rx sized pos whole =>
    have session := moved_session_send s p rx hd
    have self := producer_moved_self s p rx hp
    refine ⟨((frameDone_keepsSources _ p).rxCap).trans (by rw [session]), ?_, fun seen window => ?_⟩
    · simp [chunkEvent_returned rx cap, sized]
      omega
    · refine frameDone_showsLast (by rw [self]; exact hd) (by rwa [session]) (by rwa [session]) ?_ ?_
      · rw [self]
        show 0 < (s.producer p).total
        omega
      · simp [self, session, hd, cap, chunkEvent_returned rx cap, window, lastN_append_lastN]
  | @more s t rx events sized pos within rest ih =>
    have session := moved_session_send s p rx hd
    have self := producer_moved_self s p rx hp
    obtain ⟨rxCap, length, shows⟩ := ih (by simpa using hp) (by rw [self]; exact hd) (by rwa [session])
      (by rwa [session])
    refine ⟨by rw [rxCap, session], ?_, fun seen window => ?_⟩
    · rw [self] at length
      simp [chunkEvent_returned rx cap, length, sized]
      omega
    · have shown := shows (seen ++ rx) (by simp [self, session, hd, cap, window, lastN_append_lastN])
      simpa [chunkEvent_returned rx cap] using shown

/-! ## The bytes of a whole receive (R134, R139) -/

/-- The event of a receive's chunk (R58). -/
theorem chunkEvent_recv {s : State} {p : Nat} (rx : List Byte) (hd : (s.producer p).dir = .recv) :
    s.chunkEvent p rx = .xfer p .rx none (some rx) .ok := by
  simp [State.chunkEvent, State.chunkKind, State.chunkTx, State.chunkRx, hd]

/-- The bytes up to the end of a write within the buffer: those below it, then those written. -/
theorem take_memWrite {buf v : List Byte} {a : Nat} (h : a + v.length ≤ buf.length) :
    (memWrite buf a v).take (a + v.length) = buf.take a ++ v := by
  have below : a + v.length = (buf.take a ++ v).length := by simp; omega
  rw [memWrite, below, List.take_left]

/-- R61: each event is a receive of one to `maxChunk` bytes by producer `p`. -/
def Received (p maxChunk : Nat) (events : List Event) : Prop :=
  ∀ e ∈ events, ∃ rx : List Byte, e = .xfer p .rx none (some rx) .ok ∧ 0 < rx.length ∧ rx.length ≤ maxChunk

/-- From `s` to `t` producer `p` has received the rest of its frame, `bytes`, and its operation has ended. -/
structure State.ReceivedTo (s : State) (p : Nat) (bytes : List Byte) (t : State) : Prop where
  stored : t.session.rxBuf.take (s.producer p).total = s.session.rxBuf.take (s.producer p).cursor ++ bytes
  size : t.session.rxBuf.length = s.session.rxBuf.length
  rxLen : t.session.rxLen = (s.producer p).total
  fresh : t.session.rxStale = false
  free : t.session.lockOwner = none
  producers : t.producers = s.producers.modify p fun Q =>
    { Q with cursor := Q.total, phase := .idle, result := .ok, value := .nothing }

/-- The context of a receiver after a chunk. -/
theorem moved_producers_recv {s : State} {p : Nat} (rx : List Byte) (hd : (s.producer p).dir = .recv) :
    (s.moved p rx).producers = s.producers.modify p fun Q => { Q with cursor := Q.cursor + s.chunkSize p } := by
  simp [moved_producers, hd]

/-- R128, R129: the rest of a receive comes in chunk by chunk, each stored behind the one before, and the last
one records the length. -/
theorem State.Moves.receives {p : Nat} {s t : State} {events : List Event} (h : State.Moves p s events t)
    (hp : p < s.producers.length) (hd : (s.producer p).dir = .recv)
    (fits : (s.producer p).total ≤ s.session.rxBuf.length) :
    Received p s.cfg.maxChunk events ∧ s.ReceivedTo p (events.map Event.returned).flatten t := by
  induction h with
  | @last s rx sized pos whole =>
    have session := moved_session_recv s p rx hd
    have producers := moved_producers_recv rx hd
    have self := producer_of_modify producers hp
    have reaches : (s.producer p).cursor + rx.length = (s.producer p).total := sized ▸ whole
    have inside : (s.producer p).cursor + rx.length ≤ s.session.rxBuf.length := reaches ▸ fits
    have length := length_memWrite s.session.rxBuf (s.producer p).cursor rx inside
    rw [frameDone_recv _ p (by rw [self]; exact hd)]
    constructor
    · simp [Received, chunkEvent_recv rx hd, sized, pos, chunkSize_le]
    · constructor <;>
        simp only [returnOk_session, returnOk_producers, releaseLock_session, releaseLock_producers,
          commitReceive_session, self, session]
      · rw [take_unspecifiedFrom _ _ _ (length.symm ▸ fits), ← reaches, take_memWrite inside]
        simp [chunkEvent_recv rx hd, Event.returned]
      · rw [length_unspecifiedFrom, length]
      · show (s.moved p rx).producers.modify p _ = _
        rw [producers, List.modify_modify_eq]
        exact producers_modify_congr hp (by simp [whole])
  | @more s t rx events sized pos within rest ih =>
    have session := moved_session_recv s p rx hd
    have producers := moved_producers_recv rx hd
    have self := producer_of_modify producers hp
    have inside : (s.producer p).cursor + rx.length ≤ s.session.rxBuf.length := by omega
    have length := length_memWrite s.session.rxBuf (s.producer p).cursor rx inside
    obtain ⟨sizes, received⟩ := ih (by simpa using hp) (by rw [self]; exact hd)
      (by rw [self, session, length]; exact fits)
    obtain ⟨stored, size, rxLen, fresh, free, ended⟩ := received
    rw [self, session] at stored
    constructor
    · refine List.forall_mem_cons.mpr ⟨⟨rx, chunkEvent_recv rx hd, sized ▸ pos, ?_⟩, moved_cfg s p rx ▸ sizes⟩
      exact sized ▸ chunkSize_le s p
    · refine ⟨?_, by rw [size, session, length], by rw [rxLen, self], fresh, free, ?_⟩
      · dsimp only at stored
        rw [stored, ← sized, take_memWrite inside]
        simp [chunkEvent_recv rx hd, Event.returned]
      · rw [ended, producers, List.modify_modify_eq]
        rfl

end Sys2Proof.Machine

/-! ## The obligations -/

open Sys2Proof.Machine

/-- Settles O43: by induction over the chunks of the frame, from an empty window. -/
theorem captureHoldsLastReturnedBytes : Obligations.CaptureHoldsLastReturnedBytes := by
  intro s p n oks more others inv hp phase dir _ start window cap count agenda channel answers
  subst answers
  obtain ⟨t, events, hrun, _, moves⟩ := inv.run_moves hp phase (by rw [start]; exact count) agenda channel
  obtain ⟨rxCap, length, shows⟩ := moves.captures hp dir cap inv.rxBuf_length
  obtain ⟨rxLen, fresh, size, shown⟩ := shows [] (by simp [window, lastN])
  refine ⟨t, events, hrun, moves.trace, ?_, fresh, size.trans rxCap, shown⟩
  rw [rxLen, rxCap, List.nil_append, length, start, Nat.sub_zero]

/-- Settles O44: by induction over the chunks of the frame, each stored behind the one before. -/
theorem receiveCommitsLength : Obligations.ReceiveCommitsLength := by
  intro s p n oks more others inv hp phase dir count agenda channel answers
  subst answers
  obtain ⟨t, events, hrun, hlen, moves⟩ := inv.run_moves hp phase count agenda channel
  have fits := (inv.producers_ok p hp).recv_le (by simp [phase]) dir
  obtain ⟨sizes, received⟩ := moves.receives hp dir (inv.rxBuf_length.symm ▸ fits)
  obtain ⟨stored, size, rxLen, fresh, free, producers⟩ := received
  exact ⟨t, events, hrun, moves.trace, hlen, sizes, stored, size.trans inv.rxBuf_length, rxLen, fresh, free, producers⟩

end

section
/-! SUPPORT. One chunk step as the statements see it (R128 to R130): a chunk before the last, the last one with and
without a payload to follow, and a failed one. -/

namespace Sys2Proof.Machine

/-- Two states with the same fields are one. -/
theorem State.eq_of_fields {s t : State} (cfg : s.cfg = t.cfg) (session : s.session = t.session)
    (producers : s.producers = t.producers) (cur : s.cur = t.cur) (trace : s.trace = t.trace)
    (env : s.env = t.env) : s = t := by
  obtain ⟨_, _, _, _, _, _⟩ := s
  obtain ⟨_, _, _, _, _, _⟩ := t
  subst cfg session producers cur trace env
  rfl

/-- R58, R128: the event of a `send`'s chunk, with the received bytes where they are captured. -/
theorem chunkEvent_send {s : State} {p : Nat} (rx : List Byte) (hd : (s.producer p).dir = .send) :
    s.chunkEvent p rx = if 0 < s.session.rxCap
      then .xfer p .txrx (some ((s.producer p).chunkData (s.chunkSize p))) (some rx) .ok
      else .xfer p .tx (some ((s.producer p).chunkData (s.chunkSize p))) none .ok := by
  by_cases cap : 0 < s.session.rxCap <;>
    simp [State.chunkEvent, State.chunkKind, State.chunkTx, State.chunkRx, hd, Session.capturing, cap]

section
variable {s : State} {p : Nat}

/-! ## A chunk before the last -/

/-- R61: where more than `MAX_CHUNK` bytes are left a full chunk moves. -/
theorem chunkSize_of_middle (h : (s.producer p).cursor + s.cfg.maxChunk < (s.producer p).total) :
    s.chunkSize p = s.cfg.maxChunk := by
  unfold State.chunkSize chunkBytes
  omega

/-- R128: a good chunk before the last moves, and the frame goes on. -/
theorem step_of_middle {rx : List Byte} {others : List XferAnswer} (hmove : s.nextMove = .run p)
    (hp : p < s.producers.length) (hx : (s.producer p).phase = .xfer) (owner : s.session.lockOwner = some p)
    (pos : 0 < s.cfg.maxChunk) (more : (s.producer p).cursor + s.cfg.maxChunk < (s.producer p).total)
    (channel : s.env.channel = .ok rx :: others) (sized : rx.length = s.cfg.maxChunk) :
    step s = .next (s.moved p rx) := by
  have full := chunkSize_of_middle more
  obtain ⟨rx', answer, same⟩ := channelAnswer_of_ok (s := s.scheduled p) channel (s.chunkSize p)
  obtain rfl : rx' = rx := same (sized.trans full.symm)
  rw [step_of_answer hmove hp hx owner (full ▸ pos) answer, if_neg (by omega)]

/-! ## The last chunk -/

/-- R61: where no more than `MAX_CHUNK` bytes are left all of them move. -/
theorem chunkSize_of_last (h : (s.producer p).total ≤ (s.producer p).cursor + s.cfg.maxChunk) :
    s.chunkSize p = (s.producer p).total - (s.producer p).cursor := by
  unfold State.chunkSize chunkBytes
  omega

/-- R128, R129: a good last chunk moves, and the frame ends. -/
theorem step_of_last {rx : List Byte} {others : List XferAnswer} (hmove : s.nextMove = .run p)
    (hp : p < s.producers.length) (hx : (s.producer p).phase = .xfer) (owner : s.session.lockOwner = some p)
    (left : (s.producer p).cursor < (s.producer p).total)
    (last : (s.producer p).total ≤ (s.producer p).cursor + s.cfg.maxChunk)
    (channel : s.env.channel = .ok rx :: others) :
    ∃ rx' : List Byte, (rx.length = (s.producer p).total - (s.producer p).cursor → rx' = rx) ∧
      step s = .next ((s.moved p rx').frameDone p) := by
  have size := chunkSize_of_last last
  obtain ⟨rx', answer, same⟩ := channelAnswer_of_ok (s := s.scheduled p) channel (s.chunkSize p)
  refine ⟨rx', fun h => same (h.trans size.symm), ?_⟩
  rw [step_of_answer hmove hp hx owner (by omega) answer, if_pos (by omega)]

/-- The producers after a last frame: the window is dropped if it was committed, and the operation ends. -/
theorem frameDone_producers_last (hd : (s.producer p).dir = .send) (hpend : (s.producer p).payPending = false) :
    (s.frameDone p).producers = s.producers.modify p fun Q => { Q with
      win := if 0 < s.session.rxCap ∧ 0 < (s.producer p).total then [] else Q.win
      phase := .idle, result := .ok, value := .nothing } := by
  rw [frameDone_send_last s p hd hpend, returnOk_producers, releaseLock_producers, captured_producers,
    List.modify_modify_eq]
  simp [Session.capturing, Function.comp_def]

/-! ## A payload frame to follow (R124, R164) -/

theorem beginSend_of_closed (src : Src) (valid : Bool) (total : Nat) (closed : s.session.initialized = false) :
    s.beginSend p src valid total = s.raise p .notInitialized := if_pos closed

theorem beginSend_of_missing (src : Src) {total : Nat} (opened : s.session.initialized = true) (pos : 0 < total) :
    s.beginSend p src false total = s.raise p .invalidArgument := by
  simp [State.beginSend, opened, pos]

theorem beginSend_of_valid (src : Src) {valid : Bool} {total : Nat} (opened : s.session.initialized = true)
    (present : total = 0 ∨ valid = true) : s.beginSend p src valid total = s.setProducer p fun P =>
      { P with dir := .send, src := src, total := total, cursor := 0, win := [], phase := .acq } := by
  have passes : ¬ (0 < total ∧ valid = false) := by
    rintro ⟨pos, missing⟩
    rcases present with h | h
    · omega
    · simp [missing] at h
  simp [State.beginSend, opened, passes]

/-- The capture commit, the release of the lock and an update of the producer close no session. -/
theorem captured_releaseLock_initialized (s : State) (p : Nat) (f : Producer → Producer) :
    (((s.captured p).releaseLock).setProducer p f).session.initialized = s.session.initialized :=
  (captured_keepsSources s p).opened

/-- The producers after a header frame whose payload is present: its frame waits for the lock. -/
theorem frameDone_producers_payload (hd : (s.producer p).dir = .send) (hpend : (s.producer p).payPending = true)
    (opened : s.session.initialized = true) (present : (s.producer p).payValid = true) :
    (s.frameDone p).producers = s.producers.modify p fun Q => { Q with
      payPending := false, dir := .send, src := .pay, total := (s.producer p).payTotal, cursor := 0, win := []
      phase := .acq } := by
  rw [frameDone_send_payload s p hd hpend,
    beginSend_of_valid .pay ((captured_releaseLock_initialized s p _).trans opened) (.inr present),
    setProducer_producers, setProducer_producers, releaseLock_producers, captured_producers,
    List.modify_modify_eq, List.modify_modify_eq]
  rfl

/-- The producers after a header frame whose payload is missing: the operation ends with `InvalidArgument`. -/
theorem frameDone_producers_no_payload (hd : (s.producer p).dir = .send)
    (hpend : (s.producer p).payPending = true) (opened : s.session.initialized = true)
    (missing : (s.producer p).payValid = false) (pos : 0 < (s.producer p).payTotal) :
    (s.frameDone p).producers = s.producers.modify p fun Q => { Q with
      payPending := false, win := if 0 < s.session.rxCap ∧ 0 < (s.producer p).total then [] else Q.win
      phase := .idle, result := .invalidArgument, value := .nothing } := by
  rw [frameDone_send_payload s p hd hpend, missing,
    beginSend_of_missing .pay ((captured_releaseLock_initialized s p _).trans opened) pos,
    raise_producers, setProducer_producers, releaseLock_producers, captured_producers,
    List.modify_modify_eq, List.modify_modify_eq]
  simp [Session.capturing, Function.comp_def]

/-! ## A failed chunk (R130) -/

/-- The state after producer `p` was scheduled and its transfer, failed with `code`, was recorded. -/
def State.failureRecorded (s : State) (p code : Nat) : State :=
  ((s.scheduled p).channelTaken).emit (.xfer p (s.chunkKind p) (s.chunkTx p) none (.fail code))

/-- R128, R130: a chunk that the channel answers with a failure is recorded, and the frame fails. -/
theorem step_of_fail {code : Nat} {others : List XferAnswer} (hmove : s.nextMove = .run p)
    (hp : p < s.producers.length) (hx : (s.producer p).phase = .xfer) (owner : s.session.lockOwner = some p)
    (some_left : 0 < s.chunkSize p) (channel : s.env.channel = .fail code :: others) :
    step s = .next ((s.failureRecorded p (code % 2 ^ s.cfg.errBits)).chunkFailed p (code % 2 ^ s.cfg.errBits)) := by
  have answer := channelAnswer_of_fail (s := s.scheduled p) channel ((s.scheduled p).chunkSize p)
  rw [step_of_xfer hmove hp hx owner some_left]
  simp only [State.transferChunk, answer]
  rfl

theorem chunkFailed_producers (s : State) (p code : Nat) :
    (s.chunkFailed p code).producers = s.producers.modify p fun Q => { Q with
      payPending := false, win := [], phase := .idle, result := .transferFailed code, value := .nothing } := by
  rw [chunkFailed_eq, raise_producers, setProducer_producers, releaseLock_producers, (staled_sameBut s).producers,
    List.modify_modify_eq]
  rfl

/-- A failed chunk frees the lock and makes a configured capture buffer stale, all its bytes unspecified. -/
theorem chunkFailed_session (s : State) (p code : Nat) : (s.chunkFailed p code).session = { s.session with
    lockOwner := none, rxStale := s.session.rxStale || decide (0 < s.session.rxCap)
    rxBuf := if 0 < s.session.rxCap then unspecifiedFrom s.session.rxBuf 0 s.env.draws else s.session.rxBuf } := by
  rw [chunkFailed_eq, raise_session, setProducer_session, releaseLock_session]
  by_cases cap : 0 < s.session.rxCap <;> simp [State.staled, Session.capturing, cap]

/-- R34, R136: a stale buffer shows unspecified bytes. -/
theorem receivedBytes_of_stale (cap : 0 < s.session.rxCap) (stale : s.session.rxStale = true) :
    s.receivedBytes = unspecifiedBytes s.env.draws s.session.rxCap := by
  simp [State.receivedBytes, cap.ne', stale]

end

end Sys2Proof.Machine

/-! ## The obligations -/

open Sys2Proof.Machine

/-- Settles O38: the state after a chunk that is not the last, field by field. -/
theorem middleChunkAdvances : Obligations.MiddleChunkAdvances := by
  intro s p rx others hmove hp phase owner dir pos more channel sized P k tx event
  have full : s.chunkSize p = k := chunkSize_of_middle more
  have handed : P.chunkData k = tx := by
    simp only [tx, Producer.chunkData]
    cases P.src <;> rfl
  rw [step_of_middle hmove hp phase owner pos more channel sized]
  refine congrArg Host.Outcome.next (State.eq_of_fields (moved_cfg s p rx) (moved_session_send s p rx dir) ?_
    (moved_cur s p rx) ?_ ?_)
  · simp [moved_producers, dir, full]
  · rw [moved_trace, chunkEvent_send rx dir, full, handed]
  · simp [channel]

/-- Settles O58: the state after a receive's chunk that is not the last, field by field. -/
theorem middleReceiveChunkStores : Obligations.MiddleReceiveChunkStores := by
  intro s p rx others hmove hp phase owner dir pos more channel sized start buf
  rw [step_of_middle hmove hp phase owner pos more channel sized]
  refine congrArg Host.Outcome.next (State.eq_of_fields (moved_cfg s p rx) ?_ ?_ (moved_cur s p rx) ?_ ?_)
  · rw [moved_session_recv s p rx dir, memWrite, sized]
  · rw [moved_producers_recv rx dir, chunkSize_of_middle more]
  · rw [moved_trace, chunkEvent_recv rx dir]
  · simp [channel]

/-- Settles O39: the last chunk, then the end of a frame with nothing to capture and nothing to follow. -/
theorem lastChunkReleasesLock : Obligations.LastChunkReleasesLock := by
  intro s p rx others hmove hp phase owner dir no_payload no_buffer left last channel P k tx
  obtain ⟨rx', _, hstep⟩ := step_of_last hmove hp phase owner left last channel
  have size : s.chunkSize p = k := chunkSize_of_last last
  have handed : P.chunkData k = tx := by
    simp only [tx, Producer.chunkData]
    cases P.src <;> rfl
  have session := moved_session_send s p rx' dir
  have self := producer_moved_self s p rx' hp
  have dir' : ((s.moved p rx').producer p).dir = .send := by rw [self]; exact dir
  have no_payload' : ((s.moved p rx').producer p).payPending = false := by rw [self]; exact no_payload
  refine ⟨_, hstep, ?_, ?_, ?_⟩
  · rw [frameDone_trace, moved_trace, chunkEvent_send rx' dir, size, handed, if_neg (by omega)]
  · rw [frameDone_session_send dir', captured_of_no_buffer p (by rw [session, no_buffer]), session]
  · rw [frameDone_producers_last dir' no_payload', moved_producers, List.modify_modify_eq]
    refine producers_modify_congr hp ?_
    have reaches : P.cursor + k = P.total := Nat.add_sub_of_le left.le
    simp [session, no_buffer, size, P, reaches]

/-- Settles O40: the last chunk of the header, its capture commit, then `BeginSend` of the payload with and
without a source. -/
theorem payloadFrameFollowsHeader : Obligations.PayloadFrameFollowsHeader := by
  intro s p rx others hmove hp phase owner dir pending pay_pos opened left last channel capturing buffer window tx
  obtain ⟨rx', same, hstep⟩ := step_of_last hmove hp phase owner left last channel
  have size := chunkSize_of_last last
  have session := moved_session_send s p rx' dir
  have self := producer_moved_self s p rx' hp
  have dir' : ((s.moved p rx').producer p).dir = .send := by rw [self]; exact dir
  have pending' : ((s.moved p rx').producer p).payPending = true := by rw [self]; exact pending
  have opened' : (s.moved p rx').session.initialized = true := by rw [session, opened]
  have total_pos : 0 < ((s.moved p rx').producer p).total := by rw [self]; exact Nat.zero_lt_of_lt left
  refine ⟨_, hstep, ?_, fun no_buffer => ?_, fun cap => ?_, fun present => ?_, fun missing => ?_⟩
  · rw [frameDone_trace, moved_trace, chunkEvent_send rx' dir, size]
    by_cases cap : capturing
    · rw [same (buffer cap).2]
    · rw [if_neg cap, if_neg cap]
  · rw [frameDone_session_send dir', captured_of_no_buffer p (by rw [session]; omega), session]
  · obtain ⟨buf_size, sized⟩ := buffer cap
    obtain rfl := same sized
    have win : ((s.moved p rx').producer p).win = window := by rw [self]; exact if_pos ⟨dir, cap⟩
    have fits : window.length ≤ s.session.rxBuf.length := by
      rw [length_lastN, buf_size]
      exact Nat.min_le_right _ _
    rw [frameDone_session_send dir', captured_of_capturing (by rwa [session]) total_pos, commitWindow_session, win,
      session]
    exact ⟨rfl, (length_committed fits _).trans buf_size, take_committed fits _⟩
  · rw [frameDone_producers_payload dir' pending' opened' (by rw [self]; exact present), moved_producers,
      List.modify_modify_eq]
    exact producers_modify_congr hp (by simp [self])
  · rw [frameDone_producers_no_payload dir' pending' opened' (by rw [self]; exact missing)
      (by rw [self]; exact pay_pos), moved_producers, List.modify_modify_eq]
    refine producers_modify_congr hp ?_
    have reaches : (s.producer p).cursor + s.chunkSize p = (s.producer p).total := by omega
    by_cases cap : capturing <;> simp [session, reaches, total_pos, capturing, cap]

/-- Settles O41: the failed transfer is recorded, then `ChunkFailed`. -/
theorem failedChunkEndsOperation : Obligations.FailedChunkEndsOperation := by
  intro s p code others hmove hp phase owner left pos channel P k kind tx
  have size : s.chunkSize p = k := rfl
  have some_left : 0 < s.chunkSize p := lt_min (Nat.sub_pos_of_lt left) pos
  have hkind : s.chunkKind p = kind := by
    rcases hd : (s.producer p).dir with _ | _ <;> simp [State.chunkKind, kind, P, hd, Session.capturing]
  have htx : s.chunkTx p = tx := by
    rcases hd : (s.producer p).dir with _ | _ <;> simp [State.chunkTx, tx, P, hd, size]
  refine ⟨_, step_of_fail hmove hp phase owner some_left channel, chunkFailed_producers .., ?_, ?_, ?_, ?_, ?_, ?_,
    fun cap => ?_⟩
  · rw [chunkFailed_session]
  · rw [chunkFailed_session]; rfl
  · rw [chunkFailed_session]; rfl
  · rw [chunkFailed_session]; rfl
  · rw [chunkFailed_session]; rfl
  · rw [chunkFailed_trace, State.failureRecorded, emit_trace, hkind, htx]; rfl
  · rw [receivedBytes_of_stale]
    · rw [chunkFailed_session]; rfl
    · rw [chunkFailed_session]; exact cap
    · rw [chunkFailed_session]; exact Bool.or_eq_true_iff.mpr (.inr (decide_eq_true cap))

end

section
/-! SUPPORT. The steps of a producer that waits for the lock (R126, R127): it takes the free lock, and a frame
without bytes is done in that step; while another producer holds the lock it times out. -/

namespace Sys2Proof.Machine

section
variable {s : State} {p : Nat}

/-- R126: a scheduled waiter takes the free lock. -/
theorem step_of_acq_free (hmove : s.nextMove = .run p) (hp : p < s.producers.length)
    (phase : (s.producer p).phase = .acq) (free : s.session.lockOwner = none) :
    step s = .next ((s.scheduled p).acquireStep p) := by
  rw [step_run hmove hp, producerStep_acq (by simpa using phase)]
  simp [State.waitStep, free]

/-- R127: a scheduled waiter times out while another producer holds the lock. -/
theorem step_of_acq_held {q : Nat} (hmove : s.nextMove = .run p) (hp : p < s.producers.length)
    (phase : (s.producer p).phase = .acq) (held : s.session.lockOwner = some q) (other : q ≠ p) :
    step s = .next ((s.scheduled p).timeoutStep p) := by
  rw [step_run hmove hp, producerStep_acq (by simpa using phase)]
  simp [State.waitStep, held, other]

/-- A waiter that is scheduled while the lock is held can only time out. -/
theorem step_acq_held_inv {t : State} {q : Nat} (hmove : s.nextMove = .run p) (hp : p < s.producers.length)
    (phase : (s.producer p).phase = .acq) (held : s.session.lockOwner = some q) (hstep : step s = .next t) :
    t = (s.scheduled p).timeoutStep p := by
  by_cases own : q = p
  · rw [step_run hmove hp, producerStep_acq (by simpa using phase)] at hstep
    simp [State.waitStep, held, own] at hstep
  · rw [step_of_acq_held hmove hp phase held own] at hstep
    exact (Host.Outcome.next.inj hstep).symm

/-- R126: an acquired lock with bytes to move. -/
theorem acquireStep_of_pos (pos : 0 < (s.producer p).total) :
    s.acquireStep p = (s.setSession fun S => { S with lockOwner := some p }).setProducer p fun P =>
      { P with phase := .xfer } := if_neg pos.ne'

/-- R126: an acquired lock with nothing to move ends the frame in the same step. -/
theorem acquireStep_of_zero (empty : (s.producer p).total = 0) :
    s.acquireStep p = (s.setSession fun S => { S with lockOwner := some p }).frameDone p := if_pos empty

/-- A free lock taken and released is free. -/
theorem Session.relock_eq {S : Session} (free : S.lockOwner = none) : { S with lockOwner := none } = S := by
  rw [← free]

/-- R123 (a), R129: an empty `send` frame with nothing to follow only answers `Ok`. -/
theorem acquireStep_empty_send (free : s.session.lockOwner = none) (hd : (s.producer p).dir = .send)
    (empty : (s.producer p).total = 0) (no_payload : (s.producer p).payPending = false) :
    s.acquireStep p = s.returnOk p .nothing := by
  have uncaptured : (s.setSession fun S => { S with lockOwner := some p }).captured p =
      s.setSession fun S => { S with lockOwner := some p } := by simp [State.captured, empty]
  rw [acquireStep_of_zero empty, frameDone_send_last _ p (by simpa using hd) (by simpa using no_payload), uncaptured]
  exact State.eq_of_fields rfl (Session.relock_eq free) rfl rfl rfl rfl

/-- R134 (c), R129: an empty receive records the length 0 and answers `Ok`. -/
theorem acquireStep_empty_receive (hd : (s.producer p).dir = .recv) (empty : (s.producer p).total = 0) :
    s.acquireStep p = (((s.setSession fun S => { S with lockOwner := some p }).commitReceive p).releaseLock).returnOk
      p .nothing := by
  rw [acquireStep_of_zero empty, frameDone_recv _ p (by simpa using hd)]

end

end Sys2Proof.Machine

/-! ## The obligations -/

open Sys2Proof.Machine

/-- Settles O36: the empty frame is done in the acquire step, with no commit. -/
theorem zeroLengthSendMakesNoTransfer : Obligations.ZeroLengthSendMakesNoTransfer := by
  intro s p hmove hp phase free dir empty no_payload
  have acquired := acquireStep_empty_send (s := s.scheduled p) free dir empty no_payload
  exact (step_of_acq_free hmove hp phase free).trans (congrArg _ acquired)

/-- Settles O59: the empty receive is done in the acquire step, with a commit of length 0. -/
theorem zeroLengthReadRecordsNothing : Obligations.ZeroLengthReadRecordsNothing := by
  intro s p hmove hp phase free dir empty
  have empty' : (((s.scheduled p).setSession fun S => { S with lockOwner := some p }).producer p).total = 0 := empty
  have acquired := acquireStep_empty_receive (s := s.scheduled p) dir empty
  refine ⟨_, (step_of_acq_free hmove hp phase free).trans (congrArg _ acquired), rfl, ?_, ?_, rfl, rfl, rfl⟩
  · simp only [returnOk_session, releaseLock_session, commitReceive_session, setSession_session, scheduled_session,
      empty', free]
  · simp only [returnOk_session, releaseLock_session, commitReceive_session, setSession_session, scheduled_session,
      length_unspecifiedFrom]

/-- Settles O35: the free lock with and without bytes to move, and the held lock. -/
theorem acquireTakesFreeLock : Obligations.AcquireTakesFreeLock := by
  intro s p hmove hp phase taken
  refine ⟨fun free pos => ?_, fun free empty => ?_, fun q t held hstep => ?_⟩
  · rw [step_of_acq_free hmove hp phase free, acquireStep_of_pos (by simpa using pos)]
  · rw [step_of_acq_free hmove hp phase free, acquireStep_of_zero (by simpa using empty)]
  · obtain rfl := step_acq_held_inv hmove hp phase held hstep
    refine ⟨rfl, ?_⟩
    rw [State.timeoutStep, State.raise, State.finish, producer_setProducer_self _ p _ (by simpa using hp)]
    simp

/-- Settles O37: the time-out step, which only answers. -/
theorem waiterTimesOut : Obligations.WaiterTimesOut := fun _ _ _ hmove hp phase held other =>
  step_of_acq_held hmove hp phase held other

end

section
/-! SUPPORT. The session life cycle (R121, R122): what each acquisition does with a listed answer, the three in a row,
and what each release does. -/

namespace Sys2Proof.Machine

/-! ## Acquiring the resources (R121) -/

/-- From `s` to `t` the session has become `S`, `events` were traced, and of the opener's and the allocator's
answers these are left; the producers, the schedule and the channel's answers are as they were. -/
structure State.Opened (s : State) (S : Session) (events : List Event) (opener : List OpenAnswer)
    (allocator : List Bool) (t : State) : Prop where
  same : s.SameBut t
  channel : t.env.channel = s.env.channel
  session : t.session = S
  trace : t.trace = s.trace ++ events
  opener : t.env.opener = opener
  allocator : t.env.allocator = allocator

theorem State.Opened.refl (s : State) : s.Opened s.session [] s.env.opener s.env.allocator s :=
  ⟨⟨rfl, rfl, rfl, rfl⟩, rfl, rfl, by simp, rfl, rfl⟩

theorem State.Opened.trans {s t u : State} {S T : Session} {es fs : List Event} {os os' : List OpenAnswer}
    {bs bs' : List Bool} (h : s.Opened S es os bs t) (k : t.Opened T fs os' bs' u) :
    s.Opened T (es ++ fs) os' bs' u where
  same := h.same.trans k.same
  channel := k.channel.trans h.channel
  session := k.session
  trace := by rw [k.trace, h.trace, List.append_assoc]
  opener := k.opener
  allocator := k.allocator

section
variable {s : State} {rest : List OpenAnswer}

/-- The opener's answer as State lists it. -/
theorem openerAnswer_of_ok (h : s.env.opener = .ok :: rest) : s.openerAnswer = .ok := by
  simp [State.openerAnswer, h, openStatus]

theorem openerAnswer_of_fail {code : Nat} (h : s.env.opener = .fail code :: rest) :
    s.openerAnswer = .fail (code % 2 ^ s.cfg.errBits) := by
  simp [State.openerAnswer, h, openStatus]

/-- The allocator's answer as State lists it. -/
theorem lockAnswer_of_head {granted : Bool} (h : s.env.allocator.head? = some granted) :
    s.lockAnswer = granted := by
  simp [State.lockAnswer, List.headD_eq_head?_getD, h]

/-- The opener's answer `a` taken, its event traced. -/
theorem openerTaken_opened {a : OpenAnswer} (h : s.env.opener = a :: rest) (e : Event) :
    s.Opened s.session [e] rest s.env.allocator ((s.openerTaken).emit e) :=
  ⟨⟨rfl, rfl, rfl, rfl⟩, rfl, rfl, rfl, by simp [h], rfl⟩

/-- An answer of the allocator taken, its event traced. -/
theorem allocatorTaken_opened (s : State) (e : Event) :
    s.Opened s.session [e] s.env.opener s.env.allocator.tail ((s.allocatorTaken).emit e) :=
  ⟨⟨rfl, rfl, rfl, rfl⟩, rfl, rfl, rfl, rfl, rfl⟩

/-- A change of the session alone. -/
theorem State.Opened.setSession {t : State} {S : Session} {events : List Event} {bs : List Bool}
    (h : s.Opened S events rest bs t) (f : Session → Session) : s.Opened (f S) events rest bs (t.setSession f) :=
  ⟨⟨h.same.cfg, h.same.cur, h.same.agenda, h.same.producers⟩, h.channel, congrArg f h.session, h.trace, h.opener,
    h.allocator⟩

/-- The bus is there, or a good answer opens it. -/
theorem acquireBus_ok (h : s.env.opener = (if s.session.busValid then [] else [.ok]) ++ rest) :
    ∃ t, s.acquireBus = (t, none) ∧ s.Opened { s.session with busValid := true }
      (if s.session.busValid then [] else [.openBus .ok]) rest s.env.allocator t := by
  cases hv : s.session.busValid with
  | true =>
    refine ⟨s, by simp [State.acquireBus, hv], ?_⟩
    have there : { s.session with busValid := true } = s.session := by rw [← hv]
    have untouched : s.env.opener = rest := by simpa [hv] using h
    simpa [there, untouched] using State.Opened.refl s
  | false =>
    have listed : s.env.opener = .ok :: rest := by simpa [hv] using h
    refine ⟨_, by simp only [State.acquireBus, hv, openerAnswer_of_ok listed]; rfl, ?_⟩
    simpa using (openerTaken_opened listed (.openBus .ok)).setSession fun S => { S with busValid := true }

/-- A bad answer for the missing bus. -/
theorem acquireBus_fail {code : Nat} (missing : s.session.busValid = false) (h : s.env.opener = .fail code :: rest) :
    ∃ t, s.acquireBus = (t, some (.transferFailed (code % 2 ^ s.cfg.errBits))) ∧
      s.Opened s.session [.openBus (.fail (code % 2 ^ s.cfg.errBits))] rest s.env.allocator t :=
  ⟨_, by simp only [State.acquireBus, missing, openerAnswer_of_fail h]; rfl, openerTaken_opened h _⟩

/-- The device is there, or a good answer attaches it. -/
theorem acquireDevice_ok (h : s.env.opener = (if s.session.devValid then [] else [.ok]) ++ rest) :
    ∃ t, s.acquireDevice = (t, none) ∧ s.Opened { s.session with devValid := true }
      (if s.session.devValid then [] else [.openDevice .ok]) rest s.env.allocator t := by
  cases hv : s.session.devValid with
  | true =>
    refine ⟨s, by simp [State.acquireDevice, hv], ?_⟩
    have there : { s.session with devValid := true } = s.session := by rw [← hv]
    have untouched : s.env.opener = rest := by simpa [hv] using h
    simpa [there, untouched] using State.Opened.refl s
  | false =>
    have listed : s.env.opener = .ok :: rest := by simpa [hv] using h
    refine ⟨_, by simp only [State.acquireDevice, hv, openerAnswer_of_ok listed]; rfl, ?_⟩
    simpa using (openerTaken_opened listed (.openDevice .ok)).setSession fun S => { S with devValid := true }

/-- A bad answer for the missing device. -/
theorem acquireDevice_fail {code : Nat} (missing : s.session.devValid = false)
    (h : s.env.opener = .fail code :: rest) :
    ∃ t, s.acquireDevice = (t, some (.transferFailed (code % 2 ^ s.cfg.errBits))) ∧
      s.Opened s.session [.openDevice (.fail (code % 2 ^ s.cfg.errBits))] rest s.env.allocator t :=
  ⟨_, by simp only [State.acquireDevice, missing, openerAnswer_of_fail h]; rfl, openerTaken_opened h _⟩

/-- The bus and then the device, each there or opened by a good answer. -/
theorem acquireBusDevice_ok (h : s.env.opener = (if s.session.busValid then [] else [.ok]) ++
      ((if s.session.devValid then [] else [.ok]) ++ rest)) :
    ∃ t, andThen s.acquireBus State.acquireDevice = (t, none) ∧
      s.Opened { s.session with busValid := true, devValid := true }
        ((if s.session.busValid then [] else [.openBus .ok]) ++
          (if s.session.devValid then [] else [.openDevice .ok])) rest s.env.allocator t := by
  obtain ⟨t, bus, opened⟩ := acquireBus_ok h
  have session := opened.session
  obtain ⟨u, device, attached⟩ := acquireDevice_ok (s := t) (by rw [opened.opener, session])
  rw [session, opened.allocator] at attached
  exact ⟨u, by rw [bus]; exact device, opened.trans attached⟩

/-- The lock is there, or a good answer creates it. -/
theorem acquireLock_ok (h : s.env.allocator.head? = some true) :
    ∃ t bs, s.acquireLock = (t, none) ∧ s.Opened { s.session with
        lockValid := true, lockOwner := if s.session.lockValid then s.session.lockOwner else none }
      (if s.session.lockValid then [] else [.openLock true]) s.env.opener bs t := by
  cases hv : s.session.lockValid with
  | true =>
    refine ⟨s, s.env.allocator, by simp [State.acquireLock, hv], ?_⟩
    have there : { s.session with lockValid := true } = s.session := by rw [← hv]
    simpa [there] using State.Opened.refl s
  | false =>
    refine ⟨_, s.env.allocator.tail, by simp only [State.acquireLock, hv, lockAnswer_of_head h]; rfl, ?_⟩
    exact (allocatorTaken_opened s (.openLock true)).setSession fun S => { S with lockValid := true, lockOwner := none }

/-- A bad answer for the missing lock. -/
theorem acquireLock_fail (missing : s.session.lockValid = false) (h : s.env.allocator.head? = some false) :
    ∃ t bs, s.acquireLock = (t, some .outOfMemory) ∧ s.Opened s.session [.openLock false] s.env.opener bs t :=
  ⟨_, _, by simp only [State.acquireLock, missing, lockAnswer_of_head h]; rfl, allocatorTaken_opened s _⟩

/-- A failure at the bus, at the device or at the lock is the failure of the whole (R121). -/
theorem openSession_of_bus_failed {t : State} {e : Result} (bus : s.acquireBus = (t, some e)) :
    s.openSession = (t, some e) := by
  rw [State.openSession, bus]
  rfl

theorem openSession_of_device_failed {t u : State} {e : Result} (bus : s.acquireBus = (t, none))
    (device : t.acquireDevice = (u, some e)) : s.openSession = (u, some e) := by
  rw [State.openSession, bus]
  simp only [andThen, device]

theorem openSession_of_lock {t : State} {r : State × Option Result}
    (acquired : andThen s.acquireBus State.acquireDevice = (t, none)) (lock : t.acquireLock = r) :
    s.openSession = r := by
  rw [State.openSession, acquired]
  exact lock

/-- An initialized session has nothing to open. -/
theorem openSession_of_initialized (h : s.session.initialized = true) : s.openSession = (s, none) := by
  simp only [Session.initialized, Bool.and_eq_true] at h
  obtain ⟨⟨bus, device⟩, lock⟩ := h
  simp [State.openSession, State.acquireBus, State.acquireDevice, State.acquireLock, andThen, bus, device, lock]

end

/-- Two good answers are enough for the bus and the device, whichever of them is missing. -/
theorem good_answers_suffice {answers : List OpenAnswer} (two : 2 ≤ answers.length) (good : ∀ a ∈ answers, a = .ok)
    (bus device : Bool) :
    ∃ rest, answers = (if bus then [] else [.ok]) ++ ((if device then [] else [.ok]) ++ rest) := by
  obtain _ | ⟨a, _ | ⟨b, more⟩⟩ := answers
  · simp at two
  · simp at two
  · obtain rfl : a = .ok := good a (by simp)
    obtain rfl : b = .ok := good b (by simp)
    cases bus <;> cases device <;> simp

/-- R121: the issue step opens what is missing, on an initialized session nothing, and answers. -/
theorem exec_initializeSession (s : State) :
    exec .initializeSession s = .next (State.reply s.cur s.openSession) := by
  show Host.Outcome.next (if s.session.initialized then _ else _) = _
  split
  · next opened => rw [openSession_of_initialized opened]; rfl
  · rfl

/-- R121: nothing failed, and the answer is `Ok`. -/
theorem exec_initializeSession_ok {s t : State} (h : s.openSession = (t, none)) :
    exec .initializeSession s = .next (t.returnOk s.cur .nothing) := by
  rw [exec_initializeSession, h, State.reply]

/-- R121: a failure is the answer. -/
theorem exec_initializeSession_fail {s t : State} {e : Result} (h : s.openSession = (t, some e)) :
    exec .initializeSession s = .next (t.raise s.cur e) := by
  rw [exec_initializeSession, h, State.reply]

/-! ## Releasing the resources (R122) -/

/-- A block whose producers are all idle is not in use. -/
theorem inUse_of_idle {s : State} (h : ∀ P ∈ s.producers, P.phase = .idle) : s.inUse = false := by
  simpa [State.inUse] using h

theorem releaseDevice_eq (s : State) : s.releaseDevice = { s with
    session := { s.session with devValid := false }
    trace := s.trace ++ if s.session.devValid then [.close .device] else [] } := by
  unfold State.releaseDevice
  split
  · rfl
  · next absent =>
    have absent : s.session.devValid = false := by simpa using absent
    exact State.eq_of_fields rfl (by rw [← absent]) rfl rfl (by simp) rfl

theorem releaseBus_eq (s : State) : s.releaseBus = { s with
    session := { s.session with busValid := false }
    trace := s.trace ++ if s.session.busValid then [.close .bus] else [] } := by
  unfold State.releaseBus
  split
  · rfl
  · next absent =>
    have absent : s.session.busValid = false := by simpa using absent
    exact State.eq_of_fields rfl (by rw [← absent]) rfl rfl (by simp) rfl

theorem destroyLock_eq (s : State) : s.destroyLock = { s with
    session := { s.session with
      lockValid := false, lockOwner := if s.session.lockValid then none else s.session.lockOwner }
    trace := s.trace ++ if s.session.lockValid then [.close .lock] else [] } := by
  unfold State.destroyLock
  split
  · rfl
  · next absent =>
    have absent : s.session.lockValid = false := by simpa using absent
    exact State.eq_of_fields rfl (by rw [← absent]) rfl rfl (by simp) rfl

end Sys2Proof.Machine

/-! ## The obligations -/

open Sys2Proof.Machine

/-- Settles O14: bus and device by the listed answers, then the lock. -/
theorem initializeOpensMissingResources : Obligations.InitializeOpensMissingResources := by
  intro s two good granted
  obtain ⟨rest, listed⟩ := good_answers_suffice two good s.session.busValid s.session.devValid
  obtain ⟨t, acquired, opened⟩ := acquireBusDevice_ok listed
  obtain ⟨u, _, locked, created⟩ := acquireLock_ok (s := t) (opened.allocator ▸ granted)
  rw [opened.session] at created
  obtain ⟨same, channel, session, trace, _, _⟩ := opened.trans created
  refine ⟨_, exec_initializeSession_ok (openSession_of_lock acquired locked), session, ?_, ?_, same.cfg, same.cur,
    same.agenda, channel⟩
  · rw [returnOk_trace, trace, ← List.append_assoc, ← List.append_assoc]
  · rw [returnOk_producers, same.producers]

/-- Settles O15: the bus, the device and the lock failing, each after what comes before it is there. -/
theorem initializeStopsAtFirstFailure : Obligations.InitializeStopsAtFirstFailure := by
  intro s code more bus busOpen deviceOpen ended
  refine ⟨fun missing listed => ?_, fun missing listed => ?_, fun missing listed refused => ?_⟩
  · obtain ⟨t, failed, opened⟩ := acquireBus_fail missing listed
    exact ⟨_, exec_initializeSession_fail (openSession_of_bus_failed failed), opened.session, opened.trace, by
      rw [raise_producers, opened.same.producers]⟩
  · obtain ⟨t, acquired, opened⟩ := acquireBus_ok listed
    obtain ⟨u, failed, attached⟩ := acquireDevice_fail (s := t) (by rw [opened.session]; exact missing) opened.opener
    rw [opened.session, opened.same.cfg] at attached
    rw [opened.same.cfg] at failed
    obtain ⟨same, _, session, trace, _, _⟩ := opened.trans attached
    exact ⟨_, exec_initializeSession_fail (openSession_of_device_failed acquired failed), session, by
      rw [raise_trace, trace, ← List.append_assoc], by rw [raise_producers, same.producers]⟩
  · obtain ⟨t, acquired, opened⟩ := acquireBusDevice_ok (listed.trans (List.append_assoc ..))
    obtain ⟨u, _, failed, created⟩ := acquireLock_fail (s := t) (by rw [opened.session]; exact missing)
      (opened.allocator ▸ refused)
    rw [opened.session] at created
    obtain ⟨same, _, session, trace, _, _⟩ := opened.trans created
    refine ⟨_, exec_initializeSession_fail (openSession_of_lock acquired failed), session, ?_, by
      rw [raise_producers, same.producers]⟩
    rw [raise_trace, trace, ← List.append_assoc, ← List.append_assoc]

/-- Settles O16: the three releases in a row. -/
theorem deinitializeReleasesWhatExists : Obligations.DeinitializeReleasesWhatExists := by
  intro s idle
  have quiet := inUse_of_idle idle
  show execDeinitializeSession s = _
  rw [execDeinitializeSession, quiet, releaseDevice_eq, releaseBus_eq, destroyLock_eq]
  rfl

end

section
/-! SUPPORT. The issue steps of `send` and of the capture-buffer controller (R123, R133, R134, R136), and the step of
an idle port as `exec` of its request (R125). -/

namespace Sys2Proof.Machine

section
variable {s : State}

/-! ## The issue step of a port (R125) -/

/-- An idle port whose request decodes to a well-formed operation runs it. -/
theorem issueStep_of_request {p : Nat} {req : Request} {more : List Request} {i : Instr}
    (port : (s.producer p).port = req :: more) (reads : decodePort s.cfg.hasCapture req.words = .ok i)
    (fits : i.wellFormed s.cfg.sizeBits = true) : issueStep s p = exec i (s.accept p req i) := by
  simp only [issueStep, port, reads, fits, if_true]

/-- Accepting a request leaves the requests after it on the port. -/
theorem accept_eq {p : Nat} {req : Request} {more : List Request} (hp : p < s.producers.length)
    (port : (s.producer p).port = req :: more) (i : Instr) :
    s.accept p req i = s.setProducer p fun P => { P with op := i, pay := req.pay, port := more } :=
  setProducer_congr hp (by simp [port])

/-! ## send (R123, R124) -/

/-- The state in which the prechecks of a `send` are made. -/
theorem exec_send (payValid : Bool) (length : Nat) (s : State) :
    exec (.send payValid length) s = .next ((s.setProducer s.cur fun P =>
      { P with payValid := payValid, payPending := false }).beginSend s.cur .pay payValid length) := by
  show Host.Outcome.next (State.beginSend ((s.latchPayValid s.cur payValid).setProducer s.cur _) _ _ _ _) = _
  rw [State.latchPayValid, setProducer_setProducer]

/-! ## readInto (R134) -/

theorem exec_readInto (unit : s.cfg.hasCapture = true) (n : Nat) :
    exec (.readInto n) s = .next (s.beginReceive s.cur n) := by
  show Host.Outcome.next (if s.cfg.hasCapture = false then _ else _) = _
  simp [unit]

/-! ## setReceiveCapacity (R133) -/

/-- On a block at rest with a capture unit the capacity changes. -/
theorem exec_setReceiveCapacity (unit : s.cfg.hasCapture = true) (idle : ∀ P ∈ s.producers, P.phase = .idle)
    (n : Nat) : exec (.setReceiveCapacity n) s = .next (s.changeCapacity s.cur n) := by
  show execSetReceiveCapacity n s = _
  simp [execSetReceiveCapacity, unit, inUse_of_idle idle]

theorem freeCapture_eq (s : State) : s.freeCapture = { s with
    trace := s.trace ++ if 0 < s.session.rxCap then [.free s.session.rxCap] else [] } := by
  by_cases cap : 0 < s.session.rxCap
  · simp only [State.freeCapture, Session.capturing, cap, decide_true, if_true]
    rfl
  · simp [State.freeCapture, Session.capturing, cap]

/-- The allocator's answer as State lists it. -/
theorem allocAnswer_of_listed {granted : Bool} {more : List Bool} (h : s.env.allocator = granted :: more) (n : Nat) :
    s.allocAnswer n = granted := by
  simp [State.allocAnswer, h]

theorem changeCapacity_of_granted {p n : Nat} (pos : 0 < n) (granted : s.allocAnswer n = true) :
    s.changeCapacity p n =
      ((((s.allocatorTaken).emit (.alloc n true)).freeCapture).installCapture n).returnOk p .nothing := by
  simp [State.changeCapacity, pos.ne', granted]

theorem changeCapacity_of_denied {p n : Nat} (pos : 0 < n) (denied : s.allocAnswer n = false) :
    s.changeCapacity p n = ((s.allocatorTaken).emit (.alloc n false)).raise p .outOfMemory := by
  simp [State.changeCapacity, pos.ne', denied]

/-! ## lastReceived (R136) -/

theorem exec_lastReceived (unit : s.cfg.hasCapture = true) : exec .lastReceived s =
    .next ((s.drawn).returnOk s.cur (.received s.receivedBytes s.session.rxLen)) := by
  show Host.Outcome.next (if s.cfg.hasCapture = false then _ else _) = _
  simp [unit]

/-- R136: a frame is moving while a buffer is configured. -/
theorem captureBusy_iff (cap : 0 < s.session.rxCap) :
    s.captureBusy = true ↔ ∃ P ∈ s.producers, P.phase = .xfer := by
  simp [State.captureBusy, Session.capturing, cap]

theorem receivedBytes_of_no_buffer (no_buffer : s.session.rxCap = 0) : s.receivedBytes = [] :=
  if_pos no_buffer

theorem receivedBytes_of_busy (cap : 0 < s.session.rxCap) (busy : s.captureBusy = true) :
    s.receivedBytes = unspecifiedBytes s.env.draws s.session.rxCap := by
  simp [State.receivedBytes, cap.ne', busy]

theorem receivedBytes_of_fresh (cap : 0 < s.session.rxCap) (fresh : s.session.rxStale = false)
    (still : s.captureBusy = false) : s.receivedBytes = s.session.rxBuf := by
  simp [State.receivedBytes, cap.ne', fresh, still]

end

end Sys2Proof.Machine

/-! ## The obligations -/

open Sys2Proof Sys2Proof.Machine

/-- Settles O21: the allocator's answer, then the swap or the error. -/
theorem capacityChangeAllocatesThenSwaps : Obligations.CapacityChangeAllocatesThenSwaps := by
  intro s n granted more unit idle pos listed
  have answer := allocAnswer_of_listed listed n
  rw [exec_setReceiveCapacity unit idle]
  refine congrArg Host.Outcome.next ?_
  cases granted with
  | true =>
    rw [changeCapacity_of_granted pos answer, freeCapture_eq]
    refine State.eq_of_fields rfl rfl rfl rfl ?_ (by simp [listed])
    by_cases cap : 0 < s.session.rxCap <;> simp [cap]
  | false =>
    rw [changeCapacity_of_denied pos answer]
    exact State.eq_of_fields rfl rfl rfl rfl (by simp) (by simp [listed])

/-- Settles O24: the bytes shown without a buffer, with a stale or busy one, and with a fresh one. -/
theorem lastReceivedShowsBuffer : Obligations.LastReceivedShowsBuffer := by
  intro s unit moving
  refine ⟨s.receivedBytes, exec_lastReceived unit, receivedBytes_of_no_buffer, fun cap hidden => ?_,
    fun cap fresh still => ?_⟩
  · obtain stale | busy := hidden
    · exact receivedBytes_of_stale cap stale
    · exact receivedBytes_of_busy cap ((captureBusy_iff cap).mpr busy)
  · exact receivedBytes_of_fresh cap fresh (Bool.eq_false_iff.mpr (mt (captureBusy_iff cap).mp still))

/-- Settles O5: the idle port's step is its issue step, and the request is taken off the port. -/
theorem stepRunsDecodedRequest : Obligations.StepRunsDecodedRequest := by
  intro s p req more i hmove hp phase port reads fits
  rw [step_run hmove hp, producerStep_idle (by simpa using phase),
    issueStep_of_request (s := s.scheduled p) port reads fits, accept_eq (s := s.scheduled p) hp port]

/-- Settles O18: both prechecks pass. -/
theorem sendSetsUpFrame : Obligations.SendSetsUpFrame := by
  intro payValid length s opened present
  rw [exec_send, beginSend_of_valid .pay (by simpa using opened) present, setProducer_setProducer]

/-- Settles O19: the session is looked at first, then the bytes. -/
theorem sendPrechecksInOrder : Obligations.SendPrechecksInOrder := by
  intro payValid length s
  refine ⟨fun closed => ?_, fun opened pos => ?_⟩
  · rw [exec_send, beginSend_of_closed .pay payValid length (by simpa using closed), State.raise, State.finish,
      setProducer_setProducer]
  · rw [exec_send, beginSend_of_missing .pay (by simpa using opened) pos, State.raise, State.finish,
      setProducer_setProducer]

/-- Settles O20: the buffer is freed if there is one, and an empty one stands in its place. -/
theorem zeroCapacityClearsCapture : Obligations.ZeroCapacityClearsCapture := by
  intro s unit idle
  rw [exec_setReceiveCapacity unit idle, State.changeCapacity, if_pos rfl, freeCapture_eq]
  rfl

/-- Settles O22: all three checks of the receive pass. -/
theorem readIntoSetsUpReceive : Obligations.ReadIntoSetsUpReceive := by
  intro n s unit opened cap fits
  rw [exec_readInto unit, State.beginReceive, if_neg (by simp [opened]), if_neg cap.ne', if_neg fits.not_gt]

/-- Settles O23: the session is looked at first, then the buffer, then the length. -/
theorem readIntoChecksInOrder : Obligations.ReadIntoChecksInOrder := by
  intro n s unit answer
  rw [exec_readInto unit, State.beginReceive]
  refine ⟨fun closed => ?_, fun opened no_buffer => ?_, fun opened cap long => ?_⟩
  · rw [if_pos closed]
    rfl
  · rw [if_neg (by simp [opened]), if_pos no_buffer]
    rfl
  · rw [if_neg (by simp [opened]), if_neg cap.ne', if_pos long]
    rfl

end

section
/-! SUPPORT. The physical transfers that a step adds to the trace (R57, R58, R61, R137): none but the one of a chunk
step, which is of the lock's owner and within the chunk's size. -/

namespace Sys2Proof.Machine

/-! ## Steps that make no transfer -/

/-- From `s` to `t` the trace has grown, but by no physical transfer. -/
def State.TracesNoTransfer (s t : State) : Prop :=
  ∃ events : List Event, t.trace = s.trace ++ events ∧ ∀ e ∈ events, e.transferOf = none

theorem State.TracesNoTransfer.of_eq {s t : State} (h : t.trace = s.trace) : s.TracesNoTransfer t :=
  ⟨[], by simp [h], by simp⟩

theorem State.TracesNoTransfer.trans {s t u : State} (h : s.TracesNoTransfer t) (k : t.TracesNoTransfer u) :
    s.TracesNoTransfer u := by
  obtain ⟨es, hes, silent⟩ := h
  obtain ⟨fs, hfs, silent'⟩ := k
  exact ⟨es ++ fs, by rw [hfs, hes, List.append_assoc], List.forall_mem_append.mpr ⟨silent, silent'⟩⟩

/-- One event that is no transfer. -/
theorem State.TracesNoTransfer.of_event {s t : State} {e : Event} (h : t.trace = s.trace ++ [e])
    (he : e.transferOf = none) : s.TracesNoTransfer t :=
  ⟨[e], h, by simpa using he⟩

/-- An event that is traced only if a condition holds. -/
theorem State.TracesNoTransfer.of_ite {s t : State} {e : Event} {c : Prop} [Decidable c]
    (h : t.trace = s.trace ++ if c then [e] else []) (he : e.transferOf = none) : s.TracesNoTransfer t := by
  split at h
  · exact .of_event h he
  · exact .of_eq (by simpa using h)

/-- An acquisition traces no transfer, and does not fail with `Timeout`. -/
structure State.Acquires (s : State) (r : State × Option Result) : Prop where
  silent : s.TracesNoTransfer r.1
  error : ∀ e, r.2 = some e → e ≠ .timeout

theorem State.Acquires.there (s : State) : s.Acquires (s, none) := ⟨.of_eq rfl, nofun⟩

theorem State.Acquires.answered {s : State} {r : State × Option Result} {e : Event}
    (h : r.1.trace = s.trace ++ [e]) (he : e.transferOf = none) (error : ∀ e, r.2 = some e → e ≠ .timeout) :
    s.Acquires r := ⟨.of_event h he, error⟩

section
variable (s : State)

theorem acquireBus_acquires : s.Acquires s.acquireBus := by
  unfold State.acquireBus
  split
  · exact .there s
  · split
    · exact .answered rfl rfl nofun
    · exact .answered rfl rfl (by simp)

theorem acquireDevice_acquires : s.Acquires s.acquireDevice := by
  unfold State.acquireDevice
  split
  · exact .there s
  · split
    · exact .answered rfl rfl nofun
    · exact .answered rfl rfl (by simp)

theorem acquireLock_acquires : s.Acquires s.acquireLock := by
  unfold State.acquireLock
  split
  · exact .there s
  · split
    · exact .answered rfl rfl nofun
    · exact .answered rfl rfl (by simp)

theorem andThen_acquires {first : State × Option Result} {next : State → State × Option Result}
    (h : s.Acquires first) (k : ∀ t : State, t.Acquires (next t)) : s.Acquires (andThen first next) := by
  obtain ⟨t, _ | e⟩ := first
  · exact ⟨h.silent.trans (k t).silent, (k t).error⟩
  · exact h

/-- R121: opening a session makes no transfer and does not time out. -/
theorem openSession_acquires : s.Acquires s.openSession :=
  andThen_acquires s (andThen_acquires s (acquireBus_acquires s) acquireDevice_acquires) acquireLock_acquires

theorem reply_trace (p : Nat) (r : State × Option Result) : (State.reply p r).trace = r.1.trace := by
  obtain ⟨t, _ | e⟩ := r <;> rfl

theorem closeSession_tracesNoTransfer : s.TracesNoTransfer ((s.releaseDevice).releaseBus).destroyLock := by
  have device : s.TracesNoTransfer s.releaseDevice := .of_ite (by rw [releaseDevice_eq]) rfl
  have bus : (s.releaseDevice).TracesNoTransfer (s.releaseDevice).releaseBus :=
    .of_ite (by rw [releaseBus_eq]) rfl
  exact (device.trans bus).trans (.of_ite (by rw [destroyLock_eq]) rfl)

theorem freeCapture_tracesNoTransfer : s.TracesNoTransfer s.freeCapture :=
  .of_ite (by rw [freeCapture_eq]) rfl

theorem changeCapacity_tracesNoTransfer (p n : Nat) : s.TracesNoTransfer (s.changeCapacity p n) := by
  unfold State.changeCapacity
  split
  · exact (freeCapture_tracesNoTransfer s).trans (.of_eq rfl)
  · split
    · have allocated : s.TracesNoTransfer ((s.allocatorTaken).emit (.alloc n true)) := .of_event rfl rfl
      exact (allocated.trans (freeCapture_tracesNoTransfer _)).trans (.of_eq rfl)
    · exact .of_event rfl rfl

theorem beginReceive_trace (p n : Nat) : (s.beginReceive p n).trace = s.trace := by
  rcases beginReceive_cases s p n with ⟨_, h⟩ | ⟨_, _, h⟩ | ⟨_, _, _, h⟩ | ⟨_, _, _, h⟩ <;> rw [h] <;> rfl

theorem encoderOp_trace (p : Nat) (frame : List Byte) (payLen : Nat) : (s.encoderOp p frame payLen).trace = s.trace :=
  beginSend_trace ..

theorem acquireStep_trace (p : Nat) : (s.acquireStep p).trace = s.trace := by
  unfold State.acquireStep
  dsimp only
  split
  · exact frameDone_trace ..
  · rfl

end

theorem State.Latched.trace {s u : State} (h : s.Latched u) : u.trace = s.trace := by
  obtain rfl | ⟨_, rfl⟩ := h <;> rfl

/-- R137: no issue step makes a transfer. -/
theorem IssuesTo.tracesNoTransfer {s t : State} (h : IssuesTo s t) : s.TracesNoTransfer t := by
  cases h with
  | ends u latched r v _ next => exact next ▸ .of_eq latched.trace
  | opens next => exact next ▸ (openSession_acquires s).silent.trans (.of_eq (reply_trace _ _))
  | closes _ next => exact next ▸ (closeSession_tracesNoTransfer s).trans (.of_eq rfl)
  | sends valid length _ next => exact next ▸ .of_eq (beginSend_trace ..)
  | resizes n _ _ _ next => exact next ▸ changeCapacity_tracesNoTransfer s _ n
  | receives n next => exact next ▸ .of_eq (beginReceive_trace ..)
  | shows next => exact next ▸ .of_eq rfl
  | encodes u latched frame payLen _ _ next => exact next ▸ .of_eq ((encoderOp_trace ..).trans latched.trace)
  | tests marker next => exact next ▸ .of_eq (beginSend_trace ..)

/-- R137: no step makes a transfer but that of a producer in `XFER`. -/
theorem StepsTo.tracesNoTransfer {s t : State} {p : Nat} (hcur : s.cur = p) (hx : (s.producer p).phase ≠ .xfer)
    (h : StepsTo s p t) : s.TracesNoTransfer t := by
  cases h with
  | waits _ _ next => exact next ▸ .of_eq rfl
  | issues req _ i _ _ _ fits next =>
    subst hcur
    exact (exec_cases (s := s.accept s.cur req i) fits next).tracesNoTransfer
  | rejects _ _ _ _ _ _ next => exact next ▸ .of_eq rfl
  | acquires _ _ next => exact next ▸ .of_eq (acquireStep_trace s p)
  | timesOut _ _ _ _ next => exact next ▸ .of_eq rfl
  | moves phase _ _ _ => exact absurd phase hx

/-- A step of a producer in `XFER` is a chunk step of the lock's owner. -/
theorem StepsTo.of_xfer {s t : State} {p : Nat} (hx : (s.producer p).phase = .xfer) (h : StepsTo s p t) :
    s.session.lockOwner = some p ∧ t = s.transferChunk p := by
  cases h with
  | waits phase _ _ => simp [phase] at hx
  | issues _ _ _ phase _ _ _ _ => simp [phase] at hx
  | rejects _ _ _ phase _ _ _ => simp [phase] at hx
  | acquires phase _ _ => simp [phase] at hx
  | timesOut _ phase _ _ _ => simp [phase] at hx
  | moves _ owner _ next => exact ⟨owner, next⟩

/-! ## The transfer of a chunk step (R58, R61) -/

/-- R61, R137: what an event shows of a transfer by producer `p`, of a chunk of a `send` and of a receive. -/
structure State.OwnTransfer (s : State) (p : Nat) (e : Event) : Prop where
  owner : e.transferOf = some p
  size : e.size ≤ s.cfg.maxChunk
  sends : (s.producer p).dir = .send → 0 < e.sent.length ∧ e.sent.length ≤ s.cfg.maxChunk
  receives : (s.producer p).dir = .recv →
    (∃ rx : List Byte, e = .xfer p .rx none (some rx) .ok ∧ 0 < rx.length ∧ rx.length ≤ s.cfg.maxChunk) ∨
      ∃ code, e = .xfer p .rx none none (.fail code)

/-- A chunk that the channel answers with a failure. -/
theorem transferChunk_of_fail {s : State} {p code : Nat} (h : s.channelAnswer (s.chunkSize p) = .fail code) :
    ∃ u : State, s.transferChunk p = u.chunkFailed p code ∧ u.producers = s.producers ∧
      u.trace = s.trace ++ [.xfer p (s.chunkKind p) (s.chunkTx p) none (.fail code)] :=
  ⟨(s.channelTaken).emit (.xfer p (s.chunkKind p) (s.chunkTx p) none (.fail code)),
    by simp only [State.transferChunk, h], rfl, rfl⟩

/-- The event of a chunk, answered with a chunk's bytes or failed. -/
theorem transferChunk_event (s : State) (p : Nat) : ∃ e, (s.transferChunk p).trace = s.trace ++ [e] ∧
    ((∃ rx : List Byte, rx.length = s.chunkSize p ∧ e = s.chunkEvent p rx) ∨
      ∃ code, e = .xfer p (s.chunkKind p) (s.chunkTx p) none (.fail code)) := by
  rcases answer : s.channelAnswer (s.chunkSize p) with rx | code
  · refine ⟨_, ?_, .inl ⟨rx, channelAnswer_length answer, rfl⟩⟩
    rw [transferChunk_of_ok answer, chunkDone_trace]
    rfl
  · obtain ⟨u, failed, _, trace⟩ := transferChunk_of_fail answer
    exact ⟨_, by rw [failed, chunkFailed_trace, trace], .inr ⟨code, rfl⟩⟩

/-- In a good block the event of a chunk shows a transfer of one to `MAX_CHUNK` bytes. -/
theorem State.Inv.chunk_ownTransfer {s : State} {p : Nat} (h : s.Inv) (hp : p < s.producers.length)
    (hx : (s.producer p).phase = .xfer) {e : Event}
    (he : (∃ rx : List Byte, rx.length = s.chunkSize p ∧ e = s.chunkEvent p rx) ∨
      ∃ code, e = .xfer p (s.chunkKind p) (s.chunkTx p) none (.fail code)) : s.OwnTransfer p e := by
  have pos := h.chunkSize_pos hp hx
  have le := chunkSize_le s p
  rcases hd : (s.producer p).dir with _ | _
  · have data := (h.producers_ok p hp).length_chunkData (by simp [hx]) hd (h.cursor_add_chunkSize_le hp)
    have tx : s.chunkTx p = some ((s.producer p).chunkData (s.chunkSize p)) := by simp [State.chunkTx, hd]
    obtain ⟨owner, sent, returned⟩ : e.transferOf = some p ∧ e.sent.length = s.chunkSize p ∧
        e.returned.length ≤ s.chunkSize p := by
      obtain ⟨rx, sized, rfl⟩ | ⟨code, rfl⟩ := he
      · refine ⟨rfl, by simp [State.chunkEvent, Event.sent, tx, data], ?_⟩
        rw [chunkEvent_send rx hd]
        split <;> simp [Event.returned, sized]
      · exact ⟨rfl, by simp [Event.sent, tx, data], Nat.zero_le _⟩
    exact ⟨owner, max_le (sent ▸ le) (returned.trans le), fun _ => ⟨sent ▸ pos, sent ▸ le⟩,
      fun hr => by simp [hd] at hr⟩
  · obtain ⟨rx, sized, rfl⟩ | ⟨code, rfl⟩ := he
    · rw [chunkEvent_recv rx hd]
      exact ⟨rfl, by simp [Event.size, Event.sent, Event.returned, sized, le], fun hs => by simp [hd] at hs,
        fun _ => .inl ⟨rx, rfl, sized ▸ pos, sized ▸ le⟩⟩
    · have kind : s.chunkKind p = .rx := by simp [State.chunkKind, hd]
      have tx : s.chunkTx p = none := by simp [State.chunkTx, hd]
      rw [kind, tx]
      exact ⟨rfl, Nat.zero_le _, fun hs => by simp [hd] at hs, fun _ => .inr ⟨code, rfl⟩⟩

end Sys2Proof.Machine

/-! ## The obligation -/

open Sys2Proof.Machine

/-- Settles O52: no step but the chunk step makes a transfer, and that is its producer's, which holds the lock. -/
theorem onlyLockOwnerTransfers : Obligations.OnlyLockOwnerTransfers := by
  intro s t p inv hmove hstep
  obtain ⟨hreset, _⟩ | ⟨q, hrun, hp, steps⟩ := step_cases hstep
  · simp [hmove] at hreset
  obtain rfl : p = q := Move.run.inj (hmove.symm.trans hrun)
  by_cases moves : (s.producer p).phase = .xfer
  · obtain ⟨owner, rfl⟩ := StepsTo.of_xfer (s := s.scheduled p) moves steps
    obtain ⟨e, trace, event⟩ := transferChunk_event (s.scheduled p) p
    have scheduled : (s.scheduled p).Inv := inv.congr rfl rfl rfl
    obtain ⟨own, size, sends, receives⟩ := scheduled.chunk_ownTransfer hp moves event
    refine ⟨[e], trace, fun e' he q hq => ?_⟩
    obtain rfl : e' = e := List.mem_singleton.mp he
    obtain rfl : p = q := Option.some.inj (own.symm.trans hq)
    exact ⟨rfl, owner, moves, size, sends, receives⟩
  · obtain ⟨events, trace, silent⟩ := steps.tracesNoTransfer rfl moves
    exact ⟨events, trace, fun e he q hq => by simp [silent e he] at hq⟩

end

section
/-! SUPPORT. What a step does to the producer it is of: the phase it is left in and the answer it was given (R127,
R131). An operation that an issue step or a frame's end answers has ended, and not with `Timeout`, or waits. -/

namespace Sys2Proof.Machine

/-- Producer `p` has ended its operation, and not with `Timeout`, or waits for the lock with its result as it
was before. -/
inductive State.Answered (t : State) (p : Nat) (before : Result) : Prop where
  | ended (phase : (t.producer p).phase = .idle) (result : (t.producer p).result ≠ .timeout)
  | waits (phase : (t.producer p).phase = .acq) (result : (t.producer p).result = before)

theorem State.Answered.result_ne_timeout {t : State} {p : Nat} {before : Result} (h : t.Answered p before)
    (hb : before ≠ .timeout) : (t.producer p).result ≠ .timeout := by
  obtain ⟨_, result⟩ | ⟨_, result⟩ := h
  · exact result
  · rwa [result]

section
variable {s : State} {p : Nat}

/-- An update that leaves the result. -/
theorem result_setProducer {f : Producer → Producer} (hp : p < s.producers.length)
    (hf : (f (s.producer p)).result = (s.producer p).result) :
    ((s.setProducer p f).producer p).result = (s.producer p).result := by
  rw [producer_setProducer_self s p f hp, hf]

theorem finish_phase (hp : p < s.producers.length) (r : Result) (v : Value) :
    ((s.finish p r v).producer p).phase = .idle := by
  rw [State.finish, producer_setProducer_self s p _ hp]

theorem finish_answered (hp : p < s.producers.length) {r : Result} (v : Value) (before : Result)
    (hr : r ≠ .timeout := by simp) : (s.finish p r v).Answered p before := by
  refine .ended (finish_phase hp r v) ?_
  rw [State.finish, producer_setProducer_self s p _ hp]
  exact hr

theorem raise_answered (hp : p < s.producers.length) {e : Result} (before : Result)
    (he : e ≠ .timeout := by simp) : (s.raise p e).Answered p before := finish_answered hp _ before he

theorem returnOk_answered (hp : p < s.producers.length) (v : Value) (before : Result) :
    (s.returnOk p v).Answered p before := finish_answered hp v before

/-- A frame set up: the producer waits, its result untouched. -/
theorem setProducer_answered {f : Producer → Producer} (hp : p < s.producers.length)
    (phase : (f (s.producer p)).phase = .acq) (result : (f (s.producer p)).result = (s.producer p).result) :
    (s.setProducer p f).Answered p (s.producer p).result :=
  .waits (by rw [producer_setProducer_self s p f hp, phase]) (result_setProducer hp result)

theorem beginSend_answered (hp : p < s.producers.length) (src : Src) (valid : Bool) (total : Nat) :
    (s.beginSend p src valid total).Answered p (s.producer p).result := by
  rcases beginSend_cases s p src valid total with ⟨_, h⟩ | ⟨_, _, _, h⟩ | ⟨_, _, h⟩ <;> rw [h]
  · exact raise_answered hp _
  · exact raise_answered hp _
  · exact setProducer_answered hp rfl rfl

theorem beginReceive_answered (hp : p < s.producers.length) (n : Nat) :
    (s.beginReceive p n).Answered p (s.producer p).result := by
  rcases beginReceive_cases s p n with ⟨_, h⟩ | ⟨_, _, h⟩ | ⟨_, _, _, h⟩ | ⟨_, _, _, h⟩ <;> rw [h]
  · exact raise_answered hp _
  · exact raise_answered hp _
  · exact raise_answered hp _
  · exact setProducer_answered hp rfl rfl

/-- `BeginSend` of a producer that was updated, its result apart. -/
theorem beginSend_setProducer_answered {f : Producer → Producer} (hp : p < s.producers.length)
    (hf : (f (s.producer p)).result = (s.producer p).result) (src : Src) (valid : Bool) (total : Nat) :
    ((s.setProducer p f).beginSend p src valid total).Answered p (s.producer p).result :=
  result_setProducer hp hf ▸ beginSend_answered (s := s.setProducer p f) (by simpa using hp) src valid total

theorem encoderOp_answered (hp : p < s.producers.length) (frame : List Byte) (payLen : Nat) :
    (s.encoderOp p frame payLen).Answered p (s.producer p).result :=
  beginSend_setProducer_answered hp rfl ..

/-! ## The issue step (R125) -/

theorem reply_answered {r : State × Option Result} (hp : p < r.1.producers.length)
    (hr : ∀ e, r.2 = some e → e ≠ .timeout) (before : Result) : (State.reply p r).Answered p before := by
  obtain ⟨t, _ | e⟩ := r
  · exact returnOk_answered hp _ before
  · exact raise_answered hp before (hr e rfl)

theorem changeCapacity_answered (hp : p < s.producers.length) (n : Nat) (before : Result) :
    (s.changeCapacity p n).Answered p before := by
  have swapped (t : State) (ht : p < t.producers.length) (m : Nat) :
      p < ((t.freeCapture).installCapture m).producers.length :=
    ((freeCapture_sameBut t).trans (installCapture_sameBut _ m)).producers ▸ ht
  unfold State.changeCapacity
  split
  · exact returnOk_answered (swapped s hp 0) _ before
  · split
    · exact returnOk_answered (swapped _ (by simpa using hp) n) _ before
    · exact raise_answered (by simpa using hp) before

/-- A command whose index is checked, then encoded. -/
theorem answered_of_check (hp : p < s.producers.length) {ok : Prop} [Decidable ok] (frame : List Byte) :
    (if ok then s.encoderOp p frame 0 else s.raise p .indexOutOfRange).Answered p (s.producer p).result := by
  split
  · exact encoderOp_answered hp _ _
  · exact raise_answered hp _

/-- R125, R191: an issue step ends its operation, and not with `Timeout`, or sets up a frame that waits. -/
theorem exec_answered {i : Instr} {t : State} (hp : s.cur < s.producers.length) (h : exec i s = .next t) :
    t.Answered s.cur (s.producer s.cur).result := by
  cases i with
  | fromRGB r g b => cases h; exact returnOk_answered hp _ _
  | fromRGBA r g b alpha => cases h; exact returnOk_answered hp _ _
  | fromHSV hue sat val => cases h; exact returnOk_answered hp _ _
  | initializeSession =>
    rw [exec_initializeSession] at h
    cases h
    exact reply_answered ((openSession_sameBut s).producers ▸ hp) (openSession_acquires s).error _
  | send payValid length =>
    rw [exec_send] at h
    cases h
    exact beginSend_setProducer_answered hp rfl ..
  | setReceiveCapacity n =>
    change execSetReceiveCapacity n s = _ at h
    unfold execSetReceiveCapacity at h
    split at h
    · cases h; exact raise_answered hp _
    · split at h <;> cases h
      exact changeCapacity_answered hp n _
  | readInto n =>
    cases h
    split
    · exact raise_answered hp _
    · exact beginReceive_answered hp n
  | lastReceived =>
    cases h
    split
    · exact raise_answered hp _
    · exact returnOk_answered (by simpa using hp) _ _
  | deinitializeSession =>
    change execDeinitializeSession s = _ at h
    unfold execDeinitializeSession at h
    split at h <;> cases h
    exact returnOk_answered ((closeSession_sameBut s).producers ▸ hp) _ _
  | displayInit pin0 pin1 pin2 pin3 width height => cases h; exact encoderOp_answered hp _ _
  | displayDeinit => cases h; exact encoderOp_answered hp _ _
  | displayFlip fb => cases h; exact answered_of_check hp _
  | framebufferClear fb color => cases h; exact answered_of_check hp _
  | framebufferBlit srcFb dstFb srcX srcY dstX dstY w h' =>
    cases h
    split
    · exact raise_answered hp _
    · split
      · exact raise_answered hp _
      · exact encoderOp_answered hp _ _
  | framebufferDraw fb x y w h' payValid =>
    have latched : s.cur < (s.latchPayValid s.cur payValid).producers.length := by simpa using hp
    have result : ((s.latchPayValid s.cur payValid).producer s.cur).result = (s.producer s.cur).result :=
      result_setProducer hp rfl
    cases h
    split
    · exact raise_answered latched _
    · split
      · exact raise_answered latched _
      · exact result ▸ encoderOp_answered latched _ _
  | miscHwinfo => cases h; exact encoderOp_answered hp _ _
  | miscStat => cases h; exact encoderOp_answered hp _ _
  | selfTest marker => cases h; exact beginSend_setProducer_answered hp rfl ..

/-! ## The end of a frame, and a chunk (R129, R130) -/

/-- R129: a frame's end answers the operation, unless a payload is to follow. -/
theorem frameDone_answered (hp : p < s.producers.length) :
    (s.frameDone p).Answered p (s.producer p).result ∧
      (((s.frameDone p).producer p).phase = .acq → (s.producer p).payPending = true) := by
  have ended (t : State) (ht : p < t.producers.length) : (t.returnOk p .nothing).Answered p (s.producer p).result ∧
      (((t.returnOk p .nothing).producer p).phase = .acq → (s.producer p).payPending = true) := by
    refine ⟨returnOk_answered ht _ _, fun waits => ?_⟩
    rw [State.returnOk, finish_phase ht] at waits
    cases waits
  rcases hd : (s.producer p).dir with _ | _
  · rcases hpend : (s.producer p).payPending with _ | _
    · rw [frameDone_send_last s p hd hpend]
      exact hpend ▸ ended _ (by simpa using hp)
    · have result : (((s.captured p).releaseLock).producer p).result = (s.producer p).result := by
        rw [producer_releaseLock, producer_captured_self s p hp]
      rw [frameDone_send_payload s p hd hpend, ← result]
      exact ⟨beginSend_setProducer_answered (s := (s.captured p).releaseLock) (by simpa using hp) rfl .., fun _ => rfl⟩
  · rw [frameDone_recv s p hd]
    exact ended _ hp

/-- R126: the acquire step of an empty frame ends its operation, any other goes on to move its bytes. -/
theorem acquireStep_answered (hp : p < s.producers.length)
    (staged : (s.producer p).payPending = true → 0 < (s.producer p).total) :
    ((s.acquireStep p).Answered p (s.producer p).result ∧ ((s.acquireStep p).producer p).phase ≠ .acq) ∨
      (0 < (s.producer p).total ∧ ((s.acquireStep p).producer p).phase = .xfer ∧
        ((s.acquireStep p).producer p).result = (s.producer p).result) := by
  rcases Nat.eq_zero_or_pos (s.producer p).total with empty | pos
  · left
    obtain ⟨answered, pending⟩ := frameDone_answered (s := s.setSession fun S => { S with lockOwner := some p }) hp
    rw [acquireStep_of_zero empty]
    exact ⟨answered, fun waits => (staged (pending waits)).ne' empty⟩
  · right
    have self := producer_setProducer_self (s.setSession fun S => { S with lockOwner := some p }) p
      (fun P => { P with phase := .xfer }) hp
    rw [acquireStep_of_pos pos, self]
    exact ⟨pos, rfl, rfl⟩

/-- R38, R164: a payload is pending only behind a header frame that has bytes. -/
theorem State.Inv.pending_total (h : s.Inv) (hp : p < s.producers.length) (active : (s.producer p).phase ≠ .idle)
    (pending : (s.producer p).payPending = true) : 0 < (s.producer p).total := by
  obtain ⟨_, _, total, _⟩ := (h.producers_ok p hp).pending_header active pending
  exact total

/-- R128 to R130: after a chunk the operation is answered, waiting only with a payload to follow, or its frame
goes on. -/
theorem transferChunk_answered (hp : p < s.producers.length) :
    ((s.transferChunk p).Answered p (s.producer p).result ∧
        (((s.transferChunk p).producer p).phase = .acq → (s.producer p).payPending = true)) ∨
      (((s.transferChunk p).producer p).phase = (s.producer p).phase ∧
        ((s.transferChunk p).producer p).result = (s.producer p).result) := by
  rcases answer : s.channelAnswer (s.chunkSize p) with rx | code
  · obtain ⟨win, self⟩ := producer_advanced_self (s.answered p rx) (s.chunkSize p) rx hp
    rw [transferChunk_of_ok answer]
    by_cases whole : (s.producer p).cursor + s.chunkSize p = (s.producer p).total
    · left
      have in_block := (advanced_localTo (s.answered p rx) p (s.chunkSize p) rx).ports ▸ hp
      have done := frameDone_answered (s := (s.answered p rx).advanced p (s.chunkSize p) rx) in_block
      rw [self] at done
      rwa [chunkDone_last (s := s.answered p rx) rx whole]
    · right
      rw [chunkDone_middle (s := s.answered p rx) rx whole, self]
      exact ⟨rfl, rfl⟩
  · left
    obtain ⟨u, failed, producers, _⟩ := transferChunk_of_fail answer
    have self := producer_of_modify (chunkFailed_producers u p code) (producers ▸ hp)
    rw [failed]
    refine ⟨.ended (by rw [self]) (by rw [self]; exact nofun), fun waits => ?_⟩
    rw [self] at waits
    cases waits

end

end Sys2Proof.Machine

/-! ## The obligations -/

open Sys2Proof.Machine

/-- Settles O51: a step is local to its producer, and its phase moves as the step's case says. -/
theorem phasesMoveAsTabled : Obligations.PhasesMoveAsTabled := by
  intro s t p inv hmove hstep
  obtain ⟨hreset, _⟩ | ⟨q, hrun, hp, steps⟩ := step_cases hstep
  · simp [hmove] at hreset
  obtain rfl : p = q := Move.run.inj (hmove.symm.trans hrun)
  refine ⟨(steps.localTo rfl).others, ?_⟩
  cases steps with
  | waits phase _ next =>
    subst next
    rw [producer_scheduled] at phase ⊢
    rw [phase]
    trivial
  | issues req _ i phase _ _ _ next =>
    have answered : t.Answered p _ :=
      exec_answered (s := (s.scheduled p).accept p req i) (by simpa using hp) next
    rw [producer_scheduled] at phase
    obtain ⟨idle, _⟩ | ⟨acq, _⟩ := answered
    · rw [phase, idle]
      trivial
    · rw [phase, acq]
      trivial
  | rejects _ _ _ phase _ _ next =>
    rw [producer_scheduled] at phase
    rw [phase, next, State.rejectSelector, State.raise,
      finish_phase (by simpa using hp)]
    trivial
  | acquires phase free next =>
    rw [producer_scheduled] at phase
    have staged := inv.pending_total hp (by simp [phase])
    rw [phase, next]
    obtain ⟨answered, not_waiting⟩ | ⟨pos, xfer, _⟩ := acquireStep_answered (s := s.scheduled p) hp staged
    · obtain ⟨idle, _⟩ | ⟨acq, _⟩ := answered
      · rw [idle]
        trivial
      · exact absurd acq not_waiting
    · rw [xfer]
      exact ⟨pos, free⟩
  | timesOut q phase held ne next =>
    rw [producer_scheduled] at phase
    rw [phase, next, State.timeoutStep, State.raise,
      finish_phase (by simpa using hp)]
    trivial
  | moves phase _ _ next =>
    rw [producer_scheduled] at phase
    rw [phase, next]
    obtain ⟨answered, pending⟩ | ⟨kept, _⟩ := transferChunk_answered (s := s.scheduled p) hp
    · obtain ⟨idle, _⟩ | ⟨acq, _⟩ := answered
      · rw [idle]
        trivial
      · rw [acq]
        exact pending acq
    · rw [kept, producer_scheduled, phase]
      trivial

/-- Settles O56: of all steps only the time-out answers `Timeout`, and it needs a second producer. -/
theorem loneProducerNeverTimesOut : Obligations.LoneProducerNeverTimesOut := by
  intro s t inv lone before hstep
  obtain ⟨_, rfl⟩ | ⟨p, _, hp, steps⟩ := step_cases hstep
  · have present : 0 < s.producers.length := by rw [inv.ports, lone]; exact Nat.one_pos
    simp [State.producer, List.getD_eq_getElem?_getD, List.getElem?_eq_getElem present, Producer.reset]
  have only (q : Nat) (hq : q < s.producers.length) : q = 0 := by rw [inv.ports, lone] at hq; omega
  obtain rfl := only p hp
  cases steps with
  | waits _ _ next => exact next ▸ before
  | issues req _ i _ _ _ _ next =>
    have kept : (((s.scheduled 0).accept 0 req i).producer 0).result = (s.producer 0).result :=
      result_setProducer (s := s.scheduled 0) hp rfl
    exact (exec_answered (s := (s.scheduled 0).accept 0 req i) (by simpa using hp) next).result_ne_timeout
      (kept.trans_ne before)
  | rejects _ _ _ _ _ _ next =>
    exact next ▸ (raise_answered (by simpa using hp) (s.producer 0).result).result_ne_timeout before
  | acquires phase _ next =>
    rw [producer_scheduled] at phase
    have staged := inv.pending_total hp (by simp [phase])
    obtain ⟨answered, _⟩ | ⟨_, _, kept⟩ := acquireStep_answered (s := s.scheduled 0) hp staged
    · exact next ▸ answered.result_ne_timeout before
    · exact next ▸ kept.trans_ne before
  | timesOut q _ held ne _ => exact absurd (only q (inv.owner_exists q held)) ne
  | moves _ _ _ next =>
    obtain ⟨answered, _⟩ | ⟨_, kept⟩ := transferChunk_answered (s := s.scheduled 0) hp
    · exact next ▸ answered.result_ne_timeout before
    · exact next ▸ kept.trans_ne before

end

section
/-! SUPPORT. The commands that are one header frame (R150 to R153, R161, R162, R170, R171): the issue step stages the
frame, and on a free lock it reaches the wire in one transfer. -/

namespace Sys2Proof.Machine

/-! ## The issue step of a header-only command (R150) -/

/-- The wire commands that announce no payload, all but `framebuffer-draw`, with their framebuffer indices below
`FB_COUNT` (R160). -/
inductive HeaderOnly (fbCount : Nat) : Instr → Prop where
  | displayInit (pin0 pin1 pin2 pin3 : Byte) (width height : U16) :
    HeaderOnly fbCount (.displayInit pin0 pin1 pin2 pin3 width height)
  | displayDeinit : HeaderOnly fbCount .displayDeinit
  | displayFlip (fb : Byte) (inRange : fb.toNat < fbCount) : HeaderOnly fbCount (.displayFlip fb)
  | framebufferClear (fb : Byte) (color : Color) (inRange : fb.toNat < fbCount) :
    HeaderOnly fbCount (.framebufferClear fb color)
  | framebufferBlit (srcFb dstFb : Byte) (srcX srcY dstX dstY w h : U16) (srcInRange : srcFb.toNat < fbCount)
    (dstInRange : dstFb.toNat < fbCount) :
    HeaderOnly fbCount (.framebufferBlit srcFb dstFb srcX srcY dstX dstY w h)
  | miscHwinfo : HeaderOnly fbCount .miscHwinfo
  | miscStat : HeaderOnly fbCount .miscStat

/-- A producer that has staged a header frame with no payload to follow and waits for the lock (R150, R124). -/
def Producer.staged (P : Producer) (frame : List Byte) : Producer :=
  { P with
    hdr := frame ++ P.hdr.drop frame.length, hdrLen := frame.length, payPending := false, payTotal := 0
    dir := .send, src := .hdr, total := frame.length, cursor := 0, win := [], phase := .acq }

section
variable {s : State} {i : Instr}

theorem indexInRange_iff {c : Config} {fb : Byte} : indexInRange c fb = true ↔ fb.toNat < c.fbCount :=
  decide_eq_true_iff

/-- R97: the operands of a header-only command fit by their types. -/
theorem HeaderOnly.wellFormed {fbCount : Nat} (h : HeaderOnly fbCount i) (sizeBits : Nat) :
    i.wellFormed sizeBits = true := by
  cases h <;> rfl

open Laws in
/-- R80, R83: its frame is not empty and fits the staging buffer. -/
theorem HeaderOnly.frame_length {fbCount : Nat} (h : HeaderOnly fbCount i) (c : WireCodes) :
    0 < (headerFrame c i).length ∧ (headerFrame c i).length ≤ 16 := by
  cases h with
  | displayInit => exact staged_of_wire (HostEncoding.displayInit ..) rfl c
  | displayDeinit => exact staged_of_wire HostEncoding.displayDeinit rfl c
  | displayFlip fb => exact staged_of_wire (HostEncoding.displayFlip fb) rfl c
  | framebufferClear fb color => exact staged_of_wire (HostEncoding.framebufferClear fb color) rfl c
  | framebufferBlit => exact staged_of_wire (HostEncoding.framebufferBlit ..) rfl c
  | miscHwinfo => exact staged_of_wire HostEncoding.miscHwinfo rfl c
  | miscStat => exact staged_of_wire HostEncoding.miscStat rfl c

/-- The issue step of a header-only command goes on to `EncoderOp` with its frame and no payload. -/
theorem HeaderOnly.exec_eq (h : HeaderOnly s.cfg.fbCount i) :
    exec i s = .next (s.encoderOp s.cur (headerFrame s.cfg.codes i) 0) := by
  cases h with
  | displayInit | displayDeinit | miscHwinfo | miscStat => rfl
  | displayFlip fb inRange => exact congrArg _ (if_pos (indexInRange_iff.mpr inRange))
  | framebufferClear fb color inRange => exact congrArg _ (if_pos (indexInRange_iff.mpr inRange))
  | framebufferBlit srcFb dstFb srcX srcY dstX dstY w h srcInRange dstInRange =>
    have src := indexInRange_iff.mpr srcInRange
    have dst := indexInRange_iff.mpr dstInRange
    exact congrArg _ ((if_neg (by simp [src])).trans (if_neg (by simp [dst])))

/-- R150: on an initialized session `EncoderOp` stages the frame. -/
theorem encoderOp_of_opened (opened : s.session.initialized = true) (p : Nat) (frame : List Byte) :
    s.encoderOp p frame 0 = s.setProducer p fun P => P.staged frame := by
  obtain ⟨closed, _⟩ | ⟨_, next⟩ := encoderOp_cases s p frame 0
  · simp [opened] at closed
  · simp only [memWrite_zero] at next
    exact next

/-- R150: a header-only command stages its frame. -/
theorem HeaderOnly.exec_staged (h : HeaderOnly s.cfg.fbCount i) (opened : s.session.initialized = true) :
    exec i s = .next (s.setProducer s.cur fun P => P.staged (headerFrame s.cfg.codes i)) := by
  rw [h.exec_eq, encoderOp_of_opened opened]

end

/-! ## A staged frame on a free lock (R126, R128, R129) -/

/-- From `s` to `t` producer `p` has put `frame` on the wire in one transfer and ended its operation with `Ok`; the
session and the other producers are as they were. -/
structure State.Delivers (s : State) (p : Nat) (frame : List Byte) (t : State) : Prop where
  trace : t.trace = s.trace ++ [.xfer p .tx (some frame) none .ok]
  session : t.session = s.session
  phase : (t.producer p).phase = .idle
  result : (t.producer p).result = .ok
  others : ∀ q, q ≠ p → t.producer q = s.producer q

/-- Steps that leave the trace, the session and the other producers as they were may come before. -/
theorem State.Delivers.after {s u t : State} {p : Nat} {frame : List Byte} (h : u.Delivers p frame t)
    (trace : u.trace = s.trace) (session : u.session = s.session)
    (others : ∀ q, q ≠ p → u.producer q = s.producer q) : s.Delivers p frame t :=
  ⟨trace ▸ h.trace, h.session.trans session, h.phase, h.result, fun q hq => (h.others q hq).trans (others q hq)⟩

/-- The state after producer `p` was scheduled and took the free lock. -/
def State.lockTaken (s : State) (p : Nat) : State :=
  ((s.scheduled p).setSession fun S => { S with lockOwner := some p }).setProducer p fun P => { P with phase := .xfer }

/-- The state after producer `p` was scheduled, took the request `req` for `i` off its port and staged the frame. -/
def State.headerStaged (s : State) (p : Nat) (req : Request) (requests : List Request) (i : Instr) : State :=
  (s.scheduled p).setProducer p fun P =>
    ({ P with op := i, pay := req.pay, port := requests }).staged (headerFrame s.cfg.codes i)

section
variable {s : State} {p : Nat} {frame rx : List Byte} {more : List Move} {others : List XferAnswer} {P : Producer}

theorem nextMove_of_agenda (agenda : s.env.agenda = .run p :: more) : s.nextMove = .run p := by
  simp [State.nextMove, agenda]

/-- R125, R150: an idle port's header-only command stages its frame. -/
theorem HeaderOnly.step_eq {req : Request} {requests : List Request} {i : Instr} (h : HeaderOnly s.cfg.fbCount i)
    (hmove : s.nextMove = .run p) (hp : p < s.producers.length) (phase : (s.producer p).phase = .idle)
    (port : (s.producer p).port = req :: requests) (reads : decodePort s.cfg.hasCapture req.words = .ok i)
    (opened : s.session.initialized = true) : step s = .next (s.headerStaged p req requests i) := by
  rw [stepRunsDecodedRequest s p req requests i hmove hp phase port reads (h.wellFormed _),
    HeaderOnly.exec_staged (s := (s.scheduled p).setProducer p _) h opened, setProducer_cur, scheduled_cur,
    setProducer_setProducer]
  rfl

/-- R126: a staged frame takes the free lock. -/
theorem step_lockTaken (hmove : s.nextMove = .run p) (hp : p < s.producers.length)
    (waits : s.producer p = P.staged frame) (free : s.session.lockOwner = none) (pos : 0 < frame.length) :
    step s = .next (s.lockTaken p) := by
  rw [step_of_acq_free hmove hp (by rw [waits]; rfl) free,
    acquireStep_of_pos (by rw [producer_scheduled, waits]; exact pos)]
  rfl

/-- R128, R129: a staged frame that fits one chunk and holds the lock is delivered, the lock free again. -/
theorem step_delivers (hmove : s.nextMove = .run p) (hp : p < s.producers.length)
    (owner : s.session.lockOwner = some p) (no_buffer : s.session.rxCap = 0)
    (moving : s.producer p = { P.staged frame with phase := .xfer }) (pos : 0 < frame.length)
    (one_chunk : frame.length ≤ s.cfg.maxChunk) (channel : s.env.channel = .ok rx :: others) :
    ∃ t, step s = .next t ∧ (s.releaseLock).Delivers p frame t := by
  obtain ⟨t, hstep, trace, session, producers⟩ := lastChunkReleasesLock s p rx others hmove hp (by rw [moving]) owner
    (by rw [moving]; rfl) (by rw [moving]; rfl) no_buffer (by rw [moving]; exact pos)
    (by rw [moving]; simpa [Producer.staged] using one_chunk) channel
  have self := producer_of_modify producers hp
  refine ⟨t, hstep, ?_, session, by rw [self], by rw [self], fun q hq => ?_⟩
  · rw [trace, moving]
    simp [Producer.staged]
  · exact (producer_congr (s := s.setProducer p _) producers q).trans (producer_setProducer_other s p q _ hq)

/-- A staged frame that fits one chunk is delivered in two steps, the acquire step and the chunk step. -/
theorem run_delivers (agenda : s.env.agenda = .run p :: .run p :: more) (hp : p < s.producers.length)
    (waits : s.producer p = P.staged frame) (free : s.session.lockOwner = none) (no_buffer : s.session.rxCap = 0)
    (pos : 0 < frame.length) (one_chunk : frame.length ≤ s.cfg.maxChunk)
    (channel : s.env.channel = .ok rx :: others) :
    ∃ t, Host.Core.run Sys2Proof.core 2 s = .next t ∧ s.Delivers p frame t := by
  have acquired := step_lockTaken (nextMove_of_agenda agenda) hp waits free pos
  have moving : (s.lockTaken p).producer p = { P.staged frame with phase := .xfer } :=
    (producer_setProducer_self _ p _ hp).trans (congrArg (fun Q : Producer => { Q with phase := .xfer }) waits)
  obtain ⟨t, hstep, sent⟩ := step_delivers (s := s.lockTaken p) (nextMove_of_agenda (congrArg List.tail agenda))
    (by simpa [State.lockTaken] using hp) rfl no_buffer moving pos one_chunk channel
  refine ⟨t, ?_, sent.after rfl (Session.relock_eq free) fun q hq => producer_setProducer_other _ p q _ hq⟩
  exact (run_succ (M := Sys2Proof.core) 1 acquired).trans (run_succ (M := Sys2Proof.core) 0 hstep)

end

end Sys2Proof.Machine

/-! ## The obligations -/

open Sys2Proof Sys2Proof.Machine

/-- Settles O45: the issue step stages the frame, which is delivered in the two steps after it. -/
theorem headerOnlyCommandReachesWire : Obligations.HeaderOnlyCommandReachesWire := by
  intro s p req requests i more rx others _ hp phase opened free no_buffer wide port reads command agenda channel
  have header : HeaderOnly s.cfg.fbCount i := by
    obtain rfl | rfl | rfl | ⟨_, _, _, _, _, _, rfl⟩ | ⟨_, rfl, inRange⟩ | ⟨_, _, rfl, inRange⟩ |
      ⟨_, _, _, _, _, _, _, _, rfl, srcInRange, dstInRange⟩ := command
    · exact .displayDeinit
    · exact .miscHwinfo
    · exact .miscStat
    · exact .displayInit ..
    · exact .displayFlip _ inRange
    · exact .framebufferClear _ _ inRange
    · exact .framebufferBlit _ _ _ _ _ _ _ _ srcInRange dstInRange
  obtain ⟨pos, short⟩ := header.frame_length s.cfg.codes
  have issued := header.step_eq (nextMove_of_agenda agenda) hp phase port reads opened
  obtain ⟨t, hrun, sent⟩ := run_delivers (s := s.headerStaged p req requests i) (congrArg List.tail agenda)
    (by simpa [State.headerStaged] using hp) (producer_setProducer_self _ p _ hp) free no_buffer pos
    (short.trans wide) channel
  have delivered : s.Delivers p (headerFrame s.cfg.codes i) t :=
    sent.after rfl rfl fun q hq => producer_setProducer_other _ p q _ hq
  exact ⟨t, (run_succ (M := Sys2Proof.core) 2 issued).trans hrun, delivered.trace, delivered.session,
    delivered.phase, delivered.result, delivered.others⟩

/-- Settles O25: the display commands are header-only commands. -/
theorem displayCommandsStageHeader : Obligations.DisplayCommandsStageHeader := by
  rintro i s opened (⟨_, _, _, _, _, _, rfl⟩ | rfl | ⟨_, rfl, inRange⟩)
  · exact (HeaderOnly.displayInit ..).exec_staged opened
  · exact HeaderOnly.displayDeinit.exec_staged opened
  · exact (HeaderOnly.displayFlip _ inRange).exec_staged opened

/-- Settles O26: `framebuffer-clear` and `framebuffer-blit` are header-only commands. -/
theorem clearAndBlitStageHeader : Obligations.ClearAndBlitStageHeader := by
  rintro i s opened (⟨_, _, rfl, inRange⟩ | ⟨_, _, _, _, _, _, _, _, rfl, srcInRange, dstInRange⟩)
  · exact (HeaderOnly.framebufferClear _ _ inRange).exec_staged opened
  · exact (HeaderOnly.framebufferBlit _ _ _ _ _ _ _ _ srcInRange dstInRange).exec_staged opened

/-- Settles O28: the queries are header-only commands, their frame the pair (category, opcode). -/
theorem queriesStageHeader : Obligations.QueriesStageHeader := by
  rintro i s opened (rfl | rfl)
  · exact HeaderOnly.miscHwinfo.exec_staged opened
  · exact HeaderOnly.miscStat.exec_staged opened

end

section
/-! SUPPORT. `framebuffer-draw` (R163, R164, R166, R190): the area check is exact, and by its answer the issue step
stages the header frame with a payload to follow, or ends with `SizeOverflow`. -/

namespace Sys2Proof.Machine

/-! ## The area check (R163) -/

section
variable {sizeBits : Nat} {w h : U16}

/-- R163: a product that fits is not wrapped, so dividing it by the width gives the height back. -/
theorem checkArea_of_fits (fits : w.toNat * h.toNat < 2 ^ sizeBits) :
    checkArea sizeBits w h = some (w.toNat * h.toNat) := by
  have product : mulSize sizeBits w.toNat h.toNat = w.toNat * h.toNat := Nat.mod_eq_of_lt fits
  have passes : ¬ (w ≠ 0 ∧ mulSize sizeBits w.toNat h.toNat / w.toNat ≠ h.toNat) := by
    rintro ⟨nonzero, differs⟩
    rw [product] at differs
    exact differs (Nat.mul_div_cancel_left _ (BitVec.toNat_pos_of_ne_zero nonzero))
  exact (if_neg passes).trans (congrArg some product)

/-- R163: a product that does not fit is wrapped to less, so dividing it by the width gives less than the height. -/
theorem checkArea_of_overflow (overflows : 2 ^ sizeBits ≤ w.toNat * h.toNat) : checkArea sizeBits w h = none := by
  have nonzero : w ≠ 0 := by
    rintro rfl
    simp at overflows
  have wrapped : mulSize sizeBits w.toNat h.toNat < w.toNat * h.toNat :=
    (Nat.mod_lt _ (Nat.two_pow_pos _)).trans_le overflows
  exact if_pos ⟨nonzero, (Nat.div_lt_of_lt_mul wrapped).ne⟩

theorem checkArea_eq_none_iff : checkArea sizeBits w h = none ↔ 2 ^ sizeBits ≤ w.toNat * h.toNat := by
  refine ⟨fun raised => Nat.le_of_not_lt fun fits => ?_, checkArea_of_overflow⟩
  simp [checkArea_of_fits fits] at raised

/-- R163: two 16-bit factors have a 32-bit product. -/
theorem area_fits_of_wide (wide : 32 ≤ sizeBits) : w.toNat * h.toNat < 2 ^ sizeBits :=
  calc w.toNat * h.toNat
      < 2 ^ 16 * 2 ^ 16 := Nat.mul_lt_mul'' w.isLt h.isLt
    _ = 2 ^ 32 := by decide
    _ ≤ 2 ^ sizeBits := Nat.pow_le_pow_right (by decide) wide

/-- R166: a payload is announced exactly for an area with both sides nonzero. -/
theorem payloadLength_pos_iff : 0 < payloadLength (w.toNat * h.toNat) ↔ w ≠ 0 ∧ h ≠ 0 := by
  simp [payloadLength, Nat.pos_iff_ne_zero, BitVec.toNat_eq]

end

/-! ## The issue step (R164) -/

section
variable {s : State} {fb : Byte} {w h : U16}

/-- R164, R190: an area that overflows ends the draw, `pay_valid` latched. -/
theorem exec_framebufferDraw_of_overflow (inRange : fb.toNat < s.cfg.fbCount)
    (overflows : 2 ^ s.cfg.sizeBits ≤ w.toNat * h.toNat) (x y : U16) (payValid : Bool) :
    exec (.framebufferDraw fb x y w h payValid) s =
      .next ((s.latchPayValid s.cur payValid).raise s.cur .sizeOverflow) := by
  show execFramebufferDraw fb x y w h payValid s = _
  simp [execFramebufferDraw, indexInRange_iff.mpr inRange, checkArea_of_overflow overflows]

/-- R164: an area that fits goes on to `EncoderOp` with its payload, `pay_valid` latched. -/
theorem exec_framebufferDraw_of_fits (inRange : fb.toNat < s.cfg.fbCount)
    (fits : w.toNat * h.toNat < 2 ^ s.cfg.sizeBits) (x y : U16) (payValid : Bool) :
    exec (.framebufferDraw fb x y w h payValid) s =
      .next ((s.latchPayValid s.cur payValid).encoderOp s.cur
        (headerFrame s.cfg.codes (.framebufferDraw fb x y w h payValid)) (payloadLength (w.toNat * h.toNat))) := by
  show execFramebufferDraw fb x y w h payValid s = _
  simp [execFramebufferDraw, indexInRange_iff.mpr inRange, checkArea_of_fits fits, headerFrame]

end

end Sys2Proof.Machine

/-! ## The obligations -/

open Sys2Proof Sys2Proof.Machine

/-- Settles O31: a wrapped product is too small for the division to give the height back. -/
theorem areaCheckIsExact : Obligations.AreaCheckIsExact := fun _ _ _ =>
  ⟨checkArea_eq_none_iff, checkArea_of_fits⟩

/-- Settles O32: the area check raises, and the latch and the end of the operation are one update. -/
theorem drawOverflowRejected : Obligations.DrawOverflowRejected := by
  refine fun fb x y w h payValid s inRange => ⟨fun overflows => ?_, area_fits_of_wide⟩
  rw [exec_framebufferDraw_of_overflow inRange overflows, State.latchPayValid, State.raise, State.finish,
    setProducer_setProducer]

/-- Settles O27: the area check passes, and the latch and `EncoderOp` on the initialized session are one update. -/
theorem drawStagesHeaderAndPayload : Obligations.DrawStagesHeaderAndPayload := by
  intro fb x y w h payValid s opened inRange fits frame
  have length : frame.length = 11 := rfl
  obtain ⟨closed, _⟩ | ⟨_, staged⟩ := encoderOp_cases (s.latchPayValid s.cur payValid) s.cur frame
    (payloadLength (w.toNat * h.toNat))
  · simp [opened] at closed
  · rw [exec_framebufferDraw_of_fits inRange fits, staged, State.latchPayValid, setProducer_setProducer]
    simp only [memWrite_zero, length, payloadLength_pos_iff]
    rw [payloadLength, Nat.mul_assoc]

end

section
/-! SUPPORT. The self-test (R172, R173): the pattern keeps the fixed bytes but for the marker, strictly between the
sentinels, and the issue step hands the whole of it to a raw send. -/

namespace Sys2Proof.Machine

/-! ## The pattern (R172) -/

section
variable {c : Config} (marker : Byte)

/-- R172 (b), (c), (d): what a configuration the spec admits says of its pattern; its upper bound on the length is
`testPattern_length_lt`. -/
theorem pattern_oversized_sentinels_inside (h : c.wf = true) :
    c.maxChunk < c.pattern.bytes.length ∧ c.pattern.bytes.head? ≠ c.pattern.bytes.getLast? ∧
      0 < c.pattern.markOff ∧ c.pattern.markOff + 1 < c.pattern.bytes.length := by
  simp only [Config.wf, TestPattern.wf, Bool.and_eq_true, decide_eq_true_eq] at h
  obtain ⟨_, ⟨⟨⟨oversized, _⟩, sentinels⟩, after_first⟩, before_last⟩ := h
  exact ⟨oversized, sentinels, after_first, before_last⟩

/-- R172 (a): the length does not depend on the marker. -/
@[simp] theorem length_testPattern (c : Config) : (testPattern c marker).length = c.pattern.bytes.length :=
  List.length_set

/-- R172 (d): the marker stands at its offset. -/
theorem getElem?_testPattern_markOff (inside : c.pattern.markOff < c.pattern.bytes.length) :
    (testPattern c marker)[c.pattern.markOff]? = some marker :=
  List.getElem?_set_self inside

/-- R172 (e): every other byte is fixed. -/
theorem getElem?_testPattern_of_ne {j : Nat} (other : j ≠ c.pattern.markOff) :
    (testPattern c marker)[j]? = c.pattern.bytes[j]? :=
  List.getElem?_set_ne other.symm

/-- R172 (c): a marker after the first byte leaves the first sentinel. -/
theorem head?_testPattern (after_first : 0 < c.pattern.markOff) :
    (testPattern c marker).head? = c.pattern.bytes.head? := by
  rw [List.head?_eq_getElem?, List.head?_eq_getElem?, getElem?_testPattern_of_ne marker after_first.ne]

/-- R172 (c): a marker before the last byte leaves the last sentinel. -/
theorem getLast?_testPattern (before_last : c.pattern.markOff + 1 < c.pattern.bytes.length) :
    (testPattern c marker).getLast? = c.pattern.bytes.getLast? := by
  have other : c.pattern.bytes.length - 1 ≠ c.pattern.markOff := by omega
  rw [List.getLast?_eq_getElem?, List.getLast?_eq_getElem?, length_testPattern, getElem?_testPattern_of_ne marker other]

end

/-! ## The issue step (R173) -/

/-- R173: on an initialized session the precheck of the raw send passes, and storing the pattern and setting up its
frame are one update. -/
theorem exec_selfTest_of_initialized (marker : Byte) {s : State} (opened : s.session.initialized = true) :
    exec (.selfTest marker) s = .next (s.setProducer s.cur fun P =>
      { P with
        pat := testPattern s.cfg marker, payPending := false, dir := .send, src := .pat
        total := (testPattern s.cfg marker).length, cursor := 0, win := [], phase := .acq }) := by
  show execSelfTest marker s = _
  rw [execSelfTest, beginSend_of_valid .pat (by simpa using opened) (.inr rfl), setProducer_setProducer]

end Sys2Proof.Machine

/-! ## The obligation -/

open Sys2Proof.Machine

/-- Settles O29: the pattern is `ST_PATTERN` of the marker, which spares both sentinels. -/
theorem selfTestBuildsPattern : Obligations.SelfTestBuildsPattern := by
  intro marker s opened admitted
  obtain ⟨oversized, sentinels, after_first, before_last⟩ := pattern_oversized_sentinels_inside admitted
  refine ⟨testPattern s.cfg marker, exec_selfTest_of_initialized marker opened, length_testPattern marker s.cfg,
    ?_, getElem?_testPattern_markOff marker (Nat.lt_of_succ_lt before_last), ?_,
    fun _ other => getElem?_testPattern_of_ne marker other⟩
  · rwa [length_testPattern]
  · rwa [head?_testPattern marker after_first, getLast?_testPattern marker before_last]

end

section
/-! SUPPORT. The issue step of a wire command as its checks go, on any session (R150, R160, R164, R186, R190): an index
not below `FB_COUNT` ends it, then an area that does not fit, and otherwise its header frame goes on to `EncoderOp`. -/

namespace Sys2Proof.Machine

/-! ## An index not below `FB_COUNT` (R186) -/

section
variable {s : State} {fb : Byte}

theorem indexInRange_eq_false {c : Config} (out : c.fbCount ≤ fb.toNat) : indexInRange c fb = false :=
  decide_eq_false out.not_gt

theorem exec_displayFlip_of_out (out : s.cfg.fbCount ≤ fb.toNat) :
    exec (.displayFlip fb) s = .next (s.raise s.cur .indexOutOfRange) :=
  congrArg _ (if_neg (by simp [indexInRange_eq_false out]))

theorem exec_framebufferClear_of_out (out : s.cfg.fbCount ≤ fb.toNat) (color : Color) :
    exec (.framebufferClear fb color) s = .next (s.raise s.cur .indexOutOfRange) :=
  congrArg _ (if_neg (by simp [indexInRange_eq_false out]))

/-- R162: the source's index is checked first. -/
theorem exec_framebufferBlit_of_source_out (out : s.cfg.fbCount ≤ fb.toNat) (other : Byte) (a b c d w h : U16) :
    exec (.framebufferBlit fb other a b c d w h) s = .next (s.raise s.cur .indexOutOfRange) :=
  congrArg _ (if_pos (indexInRange_eq_false out))

/-- R162: the destination's index ends the blit whatever the source's. -/
theorem exec_framebufferBlit_of_dest_out (out : s.cfg.fbCount ≤ fb.toNat) (other : Byte) (a b c d w h : U16) :
    exec (.framebufferBlit other fb a b c d w h) s = .next (s.raise s.cur .indexOutOfRange) := by
  show Host.Outcome.next (if indexInRange s.cfg other = false then _ else _) = _
  rw [if_pos (indexInRange_eq_false out), ite_self]

/-- R164, R30: the index ends the draw, `pay_valid` latched. -/
theorem exec_framebufferDraw_of_out (out : s.cfg.fbCount ≤ fb.toNat) (x y w h : U16) (payValid : Bool) :
    exec (.framebufferDraw fb x y w h payValid) s =
      .next ((s.latchPayValid s.cur payValid).raise s.cur .indexOutOfRange) :=
  congrArg _ (if_pos (indexInRange_eq_false out))

end

/-! ## The checks of a wire command in their order -/

/-- What the issue step of a wire command answers: an index ends it, an area ends it, or its frame is encoded. -/
inductive WireIssue (s : State) (i : Instr) : State → Prop where
  | indexRejected {u : State} {fb : Byte} (latched : s.Latched u) (operand : fb ∈ indexOperands i)
    (out : s.cfg.fbCount ≤ fb.toNat) : WireIssue s i (u.raise s.cur .indexOutOfRange)
  | areaRejected {u : State} (latched : s.Latched u) (inRange : ∀ fb ∈ indexOperands i, fb.toNat < s.cfg.fbCount)
    (overflows : 2 ^ s.cfg.sizeBits ≤ pixelArea i) : WireIssue s i (u.raise s.cur .sizeOverflow)
  | encoded {u : State} (latched : s.Latched u) (inRange : ∀ fb ∈ indexOperands i, fb.toNat < s.cfg.fbCount)
    (fits : pixelArea i < 2 ^ s.cfg.sizeBits) :
    WireIssue s i (u.encoderOp s.cur (headerFrame s.cfg.codes i) (payloadBytes i))

section
variable {i : Instr}

/-- R160: the commands with a framebuffer index are those with the selectors `0x0B` to `0x0E`. -/
theorem opsel_of_index_operand {fb : Byte} (operand : fb ∈ indexOperands i) : 0x0B ≤ opsel i ∧ opsel i ≤ 0x0E := by
  cases i with
  | displayFlip | framebufferClear | framebufferBlit | framebufferDraw => exact ⟨by simp [opsel], by simp [opsel]⟩
  | _ => cases operand

/-- R166: only a draw has pixels. -/
theorem opsel_of_pixels (pixels : 0 < pixelArea i) : opsel i = 0x0E := by
  cases i with
  | framebufferDraw => rfl
  | _ => cases pixels

/-- R96: the selectors of the wire commands. -/
theorem isWireCommand_iff : isWireCommand i = true ↔ 9 ≤ opsel i ∧ opsel i ≤ 16 := by
  simp [isWireCommand]

theorem HeaderOnly.pixelArea_eq {fbCount : Nat} (h : HeaderOnly fbCount i) : pixelArea i = 0 := by
  cases h <;> rfl

/-- R83: a wire command with its indices in range is a draw or a header-only command. -/
theorem headerOnly_or_draw {fbCount : Nat} (wire : isWireCommand i = true)
    (inRange : ∀ fb ∈ indexOperands i, fb.toNat < fbCount) :
    HeaderOnly fbCount i ∨ ∃ fb x y w h payValid, i = .framebufferDraw fb x y w h payValid := by
  cases i with
  | displayInit => exact .inl (.displayInit ..)
  | displayDeinit => exact .inl .displayDeinit
  | displayFlip fb => exact .inl (.displayFlip fb (inRange fb (by simp [indexOperands])))
  | framebufferClear fb color => exact .inl (.framebufferClear fb color (inRange fb (by simp [indexOperands])))
  | framebufferBlit srcFb dstFb =>
    exact .inl (.framebufferBlit _ _ _ _ _ _ _ _ (inRange srcFb (by simp [indexOperands]))
      (inRange dstFb (by simp [indexOperands])))
  | framebufferDraw fb x y w h payValid => exact .inr ⟨fb, x, y, w, h, payValid, rfl⟩
  | miscHwinfo => exact .inl .miscHwinfo
  | miscStat => exact .inl .miscStat
  | _ => cases wire

variable {s : State}

/-- R186: an index operand not below `FB_COUNT` ends the operation, whichever command it is of. -/
theorem exec_of_index_out {fb : Byte} (operand : fb ∈ indexOperands i) (out : s.cfg.fbCount ≤ fb.toNat) :
    ∃ u, s.Latched u ∧ exec i s = .next (u.raise s.cur .indexOutOfRange) := by
  cases i with
  | displayFlip fb' =>
    obtain rfl := List.mem_singleton.mp operand
    exact ⟨s, .inl rfl, exec_displayFlip_of_out out⟩
  | framebufferClear fb' color =>
    obtain rfl := List.mem_singleton.mp operand
    exact ⟨s, .inl rfl, exec_framebufferClear_of_out out color⟩
  | framebufferBlit srcFb dstFb =>
    obtain rfl | rfl := List.mem_pair.mp operand
    · exact ⟨s, .inl rfl, exec_framebufferBlit_of_source_out out ..⟩
    · exact ⟨s, .inl rfl, exec_framebufferBlit_of_dest_out out ..⟩
  | framebufferDraw fb' x y w h payValid =>
    obtain rfl := List.mem_singleton.mp operand
    exact ⟨_, .inr ⟨payValid, rfl⟩, exec_framebufferDraw_of_out out x y w h payValid⟩
  | _ => cases operand

/-- R150, R160, R164: the issue step of a wire command, check by check. -/
theorem exec_wire (wire : isWireCommand i = true) (s : State) : ∃ t, exec i s = .next t ∧ WireIssue s i t := by
  by_cases inRange : ∀ fb ∈ indexOperands i, fb.toNat < s.cfg.fbCount
  · obtain header | ⟨fb, x, y, w, h, payValid, rfl⟩ := headerOnly_or_draw wire inRange
    · have no_payload : payloadBytes i = 0 := congrArg (3 * ·) header.pixelArea_eq
      exact ⟨_, header.exec_eq, no_payload ▸ .encoded (.inl rfl) inRange
        (header.pixelArea_eq ▸ Nat.two_pow_pos _)⟩
    · have latched : s.Latched (s.latchPayValid s.cur payValid) := .inr ⟨payValid, rfl⟩
      have index : fb.toNat < s.cfg.fbCount := inRange fb (by simp [indexOperands])
      obtain fits | overflows := Nat.lt_or_ge (w.toNat * h.toNat) (2 ^ s.cfg.sizeBits)
      · exact ⟨_, exec_framebufferDraw_of_fits index fits x y payValid, .encoded latched inRange fits⟩
      · exact ⟨_, exec_framebufferDraw_of_overflow index overflows x y payValid,
          .areaRejected latched inRange overflows⟩
  · push Not at inRange
    obtain ⟨fb, operand, out⟩ := inRange
    obtain ⟨u, latched, next⟩ := exec_of_index_out operand out
    exact ⟨_, next, .indexRejected latched operand out⟩

end

end Sys2Proof.Machine

/-! ## The obligation -/

open Sys2Proof Sys2Proof.Machine

/-- Settles O30: every check of an index stands before all else but the latch of `pay_valid`. -/
theorem indexOutOfRangeRejected : Obligations.IndexOutOfRangeRejected := by
  intro fb other color a b c d w h payValid s out rejected
  refine ⟨exec_displayFlip_of_out out, exec_framebufferClear_of_out out color,
    exec_framebufferBlit_of_source_out out .., exec_framebufferBlit_of_dest_out out .., ?_⟩
  rw [exec_framebufferDraw_of_out out, State.latchPayValid, State.raise, State.finish, setProducer_setProducer,
    setProducer_setProducer]

end

section
/-! SUPPORT. Transfer operations on an uninitialized session (R183, R193, R195): the issue step ends them, and leaves
nothing behind but the answer and a header frame already built. -/

namespace Sys2Proof.Machine

/-- From `s` to `t` the operation at port `s.cur` has ended with result `r`, the staging buffer holding `hdr` with
`hdrLen` of it in use; session, trace, environment, configuration and the other producers are as they were. -/
structure State.EndsAtOnce (s t : State) (r : Result) (hdr : List Byte) (hdrLen : Nat) : Prop where
  session : t.session = s.session
  trace : t.trace = s.trace
  env : t.env = s.env
  cfg : t.cfg = s.cfg
  others : ∀ q, q ≠ s.cur → t.producer q = s.producer q
  phase : (t.producer s.cur).phase = .idle
  result : (t.producer s.cur).result = r
  hdr_eq : (t.producer s.cur).hdr = hdr
  hdrLen_eq : (t.producer s.cur).hdrLen = hdrLen

/-- The frame of such a step, then what it answers. -/
theorem State.EndsAtOnce.frame_and {s t : State} {r : Result} {hdr : List Byte} {hdrLen : Nat} {answers : Prop}
    (h : s.EndsAtOnce t r hdr hdrLen) (k : answers) :
    t.session = s.session ∧ t.trace = s.trace ∧ t.env = s.env ∧ t.cfg = s.cfg ∧
      (∀ q, q ≠ s.cur → t.producer q = s.producer q) ∧ (t.producer s.cur).phase = .idle ∧ answers :=
  ⟨h.session, h.trace, h.env, h.cfg, h.others, h.phase, k⟩

section
variable {s u : State}

/-- An update of the issuing producer that ends its operation. -/
theorem setProducer_endsAtOnce {f : Producer → Producer} (hp : s.cur < s.producers.length)
    (idle : (f (s.producer s.cur)).phase = .idle) :
    s.EndsAtOnce (s.setProducer s.cur f) (f (s.producer s.cur)).result (f (s.producer s.cur)).hdr
      (f (s.producer s.cur)).hdrLen := by
  have self := producer_setProducer_self s s.cur f hp
  exact ⟨rfl, rfl, rfl, rfl, fun q hq => producer_setProducer_other s s.cur q f hq, by rw [self, idle],
    by rw [self], by rw [self], by rw [self]⟩

/-- An error raised after an update that leaves the staging buffer. -/
theorem setProducer_raise_endsAtOnce {f : Producer → Producer} (hp : s.cur < s.producers.length)
    (hdr : (f (s.producer s.cur)).hdr = (s.producer s.cur).hdr)
    (hdrLen : (f (s.producer s.cur)).hdrLen = (s.producer s.cur).hdrLen) (e : Result) :
    s.EndsAtOnce ((s.setProducer s.cur f).raise s.cur e) e (s.producer s.cur).hdr (s.producer s.cur).hdrLen := by
  rw [State.raise, State.finish, setProducer_setProducer, ← hdr, ← hdrLen]
  exact setProducer_endsAtOnce hp rfl

/-- Latching `pay_valid`, or not, is an update of the issuing producer that leaves the staging buffer. -/
theorem State.Latched.eq_setProducer (h : s.Latched u) : ∃ f : Producer → Producer,
    u = s.setProducer s.cur f ∧ ∀ P, (f P).hdr = P.hdr ∧ (f P).hdrLen = P.hdrLen := by
  obtain rfl | ⟨valid, rfl⟩ := h
  · exact ⟨fun P => P, (setProducer_id _ _).symm, fun _ => ⟨rfl, rfl⟩⟩
  · exact ⟨_, rfl, fun _ => ⟨rfl, rfl⟩⟩

/-- R186, R190: a failed check has built nothing. -/
theorem State.Latched.raise_endsAtOnce (h : s.Latched u) (hp : s.cur < s.producers.length) (e : Result) :
    s.EndsAtOnce (u.raise s.cur e) e (s.producer s.cur).hdr (s.producer s.cur).hdrLen := by
  obtain ⟨f, rfl, staging⟩ := h.eq_setProducer
  obtain ⟨hdr, hdrLen⟩ := staging (s.producer s.cur)
  exact setProducer_raise_endsAtOnce hp hdr hdrLen e

/-- R150, R193: `EncoderOp` builds the whole header frame before it looks at the session. -/
theorem State.Latched.encoderOp_endsAtOnce (h : s.Latched u) (hp : s.cur < s.producers.length)
    (closed : s.session.initialized = false) (frame : List Byte) (payLen : Nat) :
    s.EndsAtOnce (u.encoderOp s.cur frame payLen) .notInitialized
      (frame ++ (s.producer s.cur).hdr.drop frame.length) frame.length := by
  obtain ⟨f, rfl, staging⟩ := h.eq_setProducer
  obtain ⟨hdr, _⟩ := staging (s.producer s.cur)
  obtain ⟨_, next⟩ | ⟨opened, _⟩ := encoderOp_cases (s.setProducer s.cur f) s.cur frame payLen
  · rw [next, setProducer_setProducer, ← hdr, ← memWrite_zero]
    exact setProducer_endsAtOnce hp rfl
  · simp [closed] at opened

/-- R123, R134, R173: the transfer operations that are no wire command look at the session first. -/
theorem exec_raw_endsAtOnce {i : Instr} (transfer : isTransferOp i = true) (raw : ¬ isWireCommand i = true)
    (closed : s.session.initialized = false) (unit : s.cfg.hasCapture = true) (hp : s.cur < s.producers.length) :
    ∃ t, exec i s = .next t ∧
      s.EndsAtOnce t .notInitialized (s.producer s.cur).hdr (s.producer s.cur).hdrLen := by
  cases i with
  | send payValid length =>
    rw [exec_send, beginSend_of_closed .pay payValid length (by simpa using closed)]
    exact ⟨_, rfl, setProducer_raise_endsAtOnce hp rfl rfl _⟩
  | readInto n =>
    rw [exec_readInto unit, State.beginReceive, if_pos closed]
    exact ⟨_, rfl, State.Latched.raise_endsAtOnce (.inl rfl) hp _⟩
  | selfTest marker =>
    show ∃ t, execSelfTest marker s = .next t ∧ _
    rw [execSelfTest, beginSend_of_closed .pat true _ (by simpa using closed)]
    exact ⟨_, rfl, setProducer_raise_endsAtOnce hp rfl rfl _⟩
  | displayInit | displayDeinit | displayFlip | framebufferClear | framebufferBlit | framebufferDraw | miscHwinfo
  | miscStat => exact absurd rfl raw
  | _ => cases transfer

end

end Sys2Proof.Machine

/-! ## The obligation -/

open Sys2Proof Sys2Proof.Machine

/-- Settles O33: a wire command check by check, of which only the last has built its frame; the three others look at
the session first. -/
theorem transferOpsNeedSession : Obligations.TransferOpsNeedSession := by
  intro i s transfer closed unit hp inRange fits P frame
  by_cases wire : isWireCommand i = true
  · obtain ⟨t, next, issued⟩ := exec_wire wire s
    cases issued with
    | indexRejected latched operand out =>
      have ends := latched.raise_endsAtOnce hp .indexOutOfRange
      have rejected : ¬ inRange := fun all => (all _ operand).not_ge out
      exact ⟨_, next, ends.frame_and ⟨fun _ => ends.result, fun all => absurd all rejected,
        fun all => absurd all rejected, fun ⟨all, _⟩ => absurd all rejected, fun _ => ⟨ends.hdr_eq, ends.hdrLen_eq⟩⟩⟩
    | areaRejected latched all overflows =>
      have ends := latched.raise_endsAtOnce hp .sizeOverflow
      have rejected : ¬ fits := overflows.not_gt
      exact ⟨_, next, ends.frame_and ⟨fun outside => absurd all outside, fun _ _ => ends.result,
        fun _ small => absurd small rejected, fun ⟨_, small, _⟩ => absurd small rejected,
        fun _ => ⟨ends.hdr_eq, ends.hdrLen_eq⟩⟩⟩
    | encoded latched all small =>
      have ends := latched.encoderOp_endsAtOnce hp closed frame (payloadBytes i)
      exact ⟨_, next, ends.frame_and ⟨fun outside => absurd all outside, fun _ large => absurd small large,
        fun _ _ => ends.result, fun _ => ⟨ends.hdr_eq, ends.hdrLen_eq⟩,
        fun failed => absurd ⟨all, small, wire⟩ failed⟩⟩
  · obtain ⟨t, next, ends⟩ := exec_raw_endsAtOnce transfer wire closed unit hp
    have all : inRange := fun fb operand => by
      obtain ⟨lo, hi⟩ := opsel_of_index_operand operand
      exact absurd (isWireCommand_iff.mpr ⟨by omega, by omega⟩) wire
    have small : fits := by
      refine Nat.lt_of_not_ge fun overflows => wire (isWireCommand_iff.mpr ?_)
      rw [opsel_of_pixels ((Nat.two_pow_pos _).trans_le overflows)]
      decide
    exact ⟨t, next, ends.frame_and ⟨fun outside => absurd all outside, fun _ large => absurd small large,
      fun _ _ => ends.result, fun ⟨_, _, command⟩ => absurd command wire,
      fun _ => ⟨ends.hdr_eq, ends.hdrLen_eq⟩⟩⟩

end

section
/-! SUPPORT. The results of the issue step against the table of R191: each operation that ends there, shared operation by
shared operation. -/

namespace Sys2Proof.Machine

/-- If the operation `i` of producer `p` has ended, its result is one its row of the table allows (R191). -/
def State.EndsWithin (t : State) (p : Nat) (i : Instr) : Prop :=
  (t.producer p).phase = .idle → mayEnd i (t.producer p).result = true

section
variable {s : State} {p : Nat} {i : Instr}

theorem finish_endsWithin (hp : p < s.producers.length) {r : Result} (v : Value) (allowed : mayEnd i r = true) :
    (s.finish p r v).EndsWithin p i := by
  intro _
  rwa [State.finish, producer_setProducer_self s p _ hp]

theorem raise_endsWithin (hp : p < s.producers.length) {e : Result} (allowed : mayEnd i e = true) :
    (s.raise p e).EndsWithin p i := finish_endsWithin hp .nothing allowed

/-- R191: every operation may end with `Ok`. -/
theorem returnOk_endsWithin (hp : p < s.producers.length) (v : Value) : (s.returnOk p v).EndsWithin p i :=
  finish_endsWithin hp v rfl

/-- A frame set up has not ended. -/
theorem setProducer_endsWithin {f : Producer → Producer} (hp : p < s.producers.length)
    (waits : (f (s.producer p)).phase = .acq) : (s.setProducer p f).EndsWithin p i := by
  intro idle
  rw [producer_setProducer_self s p f hp, waits] at idle
  cases idle

/-- R124: `BeginSend` ends with `NotInitialized`, or with `InvalidArgument` where bytes are missing. -/
theorem beginSend_endsWithin (hp : p < s.producers.length) (src : Src) {valid : Bool} (total : Nat)
    (session : mayEnd i .notInitialized = true) (bytes : valid = false → mayEnd i .invalidArgument = true) :
    (s.beginSend p src valid total).EndsWithin p i := by
  obtain ⟨_, h⟩ | ⟨_, _, missing, h⟩ | ⟨_, _, h⟩ := beginSend_cases s p src valid total <;> rw [h]
  · exact raise_endsWithin hp session
  · exact raise_endsWithin hp (bytes missing)
  · exact setProducer_endsWithin hp rfl

/-- R134: the three errors of `readInto`. -/
theorem beginReceive_endsWithin (hp : p < s.producers.length) (n : Nat) :
    (s.beginReceive p n).EndsWithin p (.readInto n) := by
  obtain ⟨_, h⟩ | ⟨_, _, h⟩ | ⟨_, _, _, h⟩ | ⟨_, _, _, h⟩ := beginReceive_cases s p n <;> rw [h]
  · exact raise_endsWithin hp rfl
  · exact raise_endsWithin hp rfl
  · exact raise_endsWithin hp rfl
  · exact setProducer_endsWithin hp rfl

/-! ## The errors of opening a session (R121) -/

theorem acquireBus_error {e : Result} (h : s.acquireBus.2 = some e) : mayEnd .initializeSession e = true := by
  unfold State.acquireBus at h
  split at h
  · cases h
  · split at h <;> cases h
    rfl

theorem acquireDevice_error {e : Result} (h : s.acquireDevice.2 = some e) : mayEnd .initializeSession e = true := by
  unfold State.acquireDevice at h
  split at h
  · cases h
  · split at h <;> cases h
    rfl

theorem acquireLock_error {e : Result} (h : s.acquireLock.2 = some e) : mayEnd .initializeSession e = true := by
  unfold State.acquireLock at h
  split at h
  · cases h
  · split at h <;> cases h
    rfl

/-- The error of two acquisitions is that of the one that failed. -/
theorem andThen_error {first : State × Option Result} {next : State → State × Option Result} {allowed : Result → Prop}
    (h : ∀ e, first.2 = some e → allowed e) (k : ∀ (t : State) (e : Result), (next t).2 = some e → allowed e) :
    ∀ e, (andThen first next).2 = some e → allowed e := by
  obtain ⟨t, _ | e⟩ := first
  · exact k t
  · exact h

/-- R121: an error of the bus or the device carries the opener's code, one of the lock is `OutOfMemory`. -/
theorem openSession_error (s : State) : ∀ e, s.openSession.2 = some e → mayEnd .initializeSession e = true :=
  andThen_error (andThen_error (fun _ => acquireBus_error) fun _ _ => acquireDevice_error) fun _ _ => acquireLock_error

theorem reply_endsWithin {r : State × Option Result} (hp : p < r.1.producers.length)
    (error : ∀ e, r.2 = some e → mayEnd i e = true) : (State.reply p r).EndsWithin p i := by
  obtain ⟨t, _ | e⟩ := r
  · exact returnOk_endsWithin hp _
  · exact raise_endsWithin hp (error e rfl)

/-! ## The issue step (R125, R191) -/

/-- R133: a capacity change ends with `Ok` or `OutOfMemory`. -/
theorem changeCapacity_endsWithin (hp : p < s.producers.length) (n : Nat) :
    (s.changeCapacity p n).EndsWithin p (.setReceiveCapacity n) := by
  have swapped (u : State) (hu : p < u.producers.length) (m : Nat) :
      p < ((u.freeCapture).installCapture m).producers.length :=
    ((freeCapture_sameBut u).trans (installCapture_sameBut _ m)).producers ▸ hu
  unfold State.changeCapacity
  split
  · exact returnOk_endsWithin (swapped s hp 0) _
  · split
    · exact returnOk_endsWithin (swapped _ (by simpa using hp) n) _
    · exact raise_endsWithin (by simpa using hp) rfl

/-- R150: a complete header frame has its bytes, so `EncoderOp` can only find the session missing. -/
theorem encoderOp_endsWithin (hp : p < s.producers.length) (frame : List Byte) (payLen : Nat)
    (session : mayEnd i .notInitialized = true) : (s.encoderOp p frame payLen).EndsWithin p i :=
  beginSend_endsWithin (by simpa using hp) .hdr _ session nofun

/-- R191: the checks of a wire command raise what its row allows; no other command has an index or pixels. -/
theorem WireIssue.endsWithin {t : State} (h : WireIssue s i t) (wire : isWireCommand i = true)
    (hp : s.cur < s.producers.length) : t.EndsWithin s.cur i := by
  cases h with
  | indexRejected latched operand _ =>
    exact raise_endsWithin (latched.localTo.ports ▸ hp) (by simp [mayEnd, opsel_of_index_operand operand])
  | areaRejected latched _ overflows =>
    have draw := opsel_of_pixels ((Nat.two_pow_pos _).trans_le overflows)
    exact raise_endsWithin (latched.localTo.ports ▸ hp) (by simp [mayEnd, draw])
  | encoded latched _ _ =>
    exact encoderOp_endsWithin (latched.localTo.ports ▸ hp) _ _ (by simp [mayEnd, isWireCommand_iff.mp wire])

/-- R191: the operations that are no wire command, on a block with a capture unit. -/
theorem exec_raw_endsWithin {t : State} (raw : ¬ isWireCommand i = true) (unit : s.cfg.hasCapture = true)
    (hp : s.cur < s.producers.length) (h : exec i s = .next t) : t.EndsWithin s.cur i := by
  cases i with
  | fromRGB | fromRGBA | fromHSV => cases h; exact returnOk_endsWithin hp _
  | initializeSession =>
    rw [exec_initializeSession] at h
    cases h
    exact reply_endsWithin ((openSession_sameBut s).producers ▸ hp) (openSession_error s)
  | send payValid length =>
    rw [exec_send] at h
    cases h
    exact beginSend_endsWithin (by simpa using hp) .pay length rfl fun _ => rfl
  | setReceiveCapacity n =>
    change execSetReceiveCapacity n s = _ at h
    rw [execSetReceiveCapacity, if_neg (by simp [unit])] at h
    split at h <;> cases h
    exact changeCapacity_endsWithin hp n
  | readInto n =>
    rw [exec_readInto unit] at h
    cases h
    exact beginReceive_endsWithin hp n
  | lastReceived =>
    rw [exec_lastReceived unit] at h
    cases h
    exact returnOk_endsWithin (by simpa using hp) _
  | deinitializeSession =>
    change execDeinitializeSession s = _ at h
    unfold execDeinitializeSession at h
    split at h <;> cases h
    exact returnOk_endsWithin ((closeSession_sameBut s).producers ▸ hp) _
  | selfTest marker => cases h; exact beginSend_endsWithin (by simpa using hp) .pat _ rfl nofun
  | displayInit | displayDeinit | displayFlip | framebufferClear | framebufferBlit | framebufferDraw | miscHwinfo
  | miscStat => exact absurd rfl raw

end

end Sys2Proof.Machine

/-! ## The obligations -/

open Sys2Proof Sys2Proof.Machine

/-- Settles O34: a wire command by its checks, any other operation by the shared operation that ends it. -/
theorem issueResultsAsTabled : Obligations.IssueResultsAsTabled := by
  intro i s t hp next unit
  by_cases wire : isWireCommand i = true
  · obtain ⟨t', next', issued⟩ := exec_wire wire s
    obtain rfl : t = t' := Host.Outcome.next.inj (next.symm.trans next')
    exact issued.endsWithin wire hp
  · exact exec_raw_endsWithin wire unit hp next

/-- Settles O53: the invariant holds after the step, and by it the lock's owner is moving a frame. -/
theorem endedOperationHoldsNoLock : Obligations.EndedOperationHoldsNoLock := by
  intro s t p inv hstep hp idle owner
  have after : t.Inv := step_inv inv hstep
  have in_block : p < t.producers.length := by rwa [after.ports, step_cfg hstep, ← inv.ports]
  have moving : (t.producer p).phase = .xfer := (after.xfer_iff_owner p in_block).mpr owner
  rw [idle] at moving
  cases moving

/-- Settles O57: the table of codes row by row, the one with a device code for every such code. -/
theorem resultCodesAsTabled : Obligations.ResultCodesAsTabled := by
  refine ⟨rfl, fun r => ?_⟩
  cases r with
  | transferFailed code => exact ⟨by simp [resultCode], by simp [resultCode, devCode]⟩
  | _ => decide

end

section
/-! SUPPORT. What stops the block or leaves it at rest: the faults a step can end in and why a good state has none
(R213, R38), the idle port (R210), the refusal of session management in use (R222), the reset input (R210, R211). -/

namespace Sys2Proof.Machine

/-! ## The faults of a step -/

/-- Every way the step of producer `p` can end in a fault: each is a state of the sequencer that R38 excludes. -/
inductive FaultsAt (s : State) (p : Nat) : Fault → Prop where
  /-- Waiting for a lock it holds itself (R127). -/
  | waitsForItself (phase : (s.producer p).phase = .acq) (owner : s.session.lockOwner = some p) :
      FaultsAt s p (.waitsForItself p)
  /-- Moving a frame without the lock (R38 (c)). -/
  | transferWithoutLock (phase : (s.producer p).phase = .xfer) (unowned : s.session.lockOwner ≠ some p) :
      FaultsAt s p (.transferWithoutLock p)
  /-- Moving a frame of which nothing is left (R38 (d)). -/
  | emptyTransfer (phase : (s.producer p).phase = .xfer) (none_left : s.chunkSize p = 0) :
      FaultsAt s p (.emptyTransfer p)

/-- An operation ends in a result, goes on or is refused; none faults. -/
theorem exec_ne_fault (i : Instr) (s : State) (f : Fault) : exec i s ≠ .fault f := by
  cases i with
  | deinitializeSession =>
    change execDeinitializeSession s ≠ _
    unfold execDeinitializeSession
    split <;> nofun
  | setReceiveCapacity n =>
    change execSetReceiveCapacity n s ≠ _
    unfold execSetReceiveCapacity
    split
    · nofun
    · split <;> nofun
  | _ => nofun

section
variable {s : State} {p : Nat} {f : Fault}

/-- R125, R99: whatever is on the port, the issue step is no fault. -/
theorem issueStep_ne_fault : issueStep s p ≠ .fault f := by
  unfold issueStep
  split
  · nofun
  · split
    · split
      · exact exec_ne_fault _ _ f
      · nofun
    · nofun
    · nofun

theorem waitStep_fault (phase : (s.producer p).phase = .acq) (h : s.waitStep p = .fault f) : FaultsAt s p f := by
  unfold State.waitStep at h
  split at h
  · cases h
  · next q held =>
    split at h
    · next own => cases h; exact .waitsForItself phase (own ▸ held)
    · cases h

theorem chunkStep_fault (phase : (s.producer p).phase = .xfer) (h : s.chunkStep p = .fault f) : FaultsAt s p f := by
  unfold State.chunkStep at h
  split at h
  · next unowned => cases h; exact .transferWithoutLock phase unowned
  · split at h
    · next none_left => cases h; exact .emptyTransfer phase none_left
    · cases h

theorem producerStep_fault (h : producerStep s p = .fault f) : FaultsAt s p f := by
  rcases phase : (s.producer p).phase with _ | _ | _
  · exact absurd ((producerStep_idle phase).symm.trans h) issueStep_ne_fault
  · exact waitStep_fault phase ((producerStep_acq phase).symm.trans h)
  · exact chunkStep_fault phase ((producerStep_xfer phase).symm.trans h)

/-- A step that faults is the step of a scheduled producer: the reset input never does. -/
theorem step_fault (h : step s = .fault f) :
    ∃ p, s.nextMove = .run p ∧ p < s.producers.length ∧ FaultsAt (s.scheduled p) p f := by
  rcases hmove : s.nextMove with p | _
  · by_cases hp : p < s.producers.length
    · exact ⟨p, rfl, hp, producerStep_fault ((step_run hmove hp).symm.trans h)⟩
    · simp [step, hmove, hp] at h
  · simp [step_reset hmove] at h

/-- R38 (c), (d): in a good state the owner of the lock is the one producer that moves a frame, and of that frame
bytes are left. -/
theorem State.Inv.not_faultsAt (inv : s.Inv) (hp : p < s.producers.length) : ¬ FaultsAt s p f
  | .waitsForItself phase owner => by
    have moving : (s.producer p).phase = .xfer := (inv.xfer_iff_owner p hp).mpr owner
    rw [phase] at moving
    cases moving
  | .transferWithoutLock phase unowned => unowned ((inv.xfer_iff_owner p hp).mp phase)
  | .emptyTransfer phase none_left => (inv.chunkSize_pos hp phase).ne' none_left

end

/-! ## A block at rest and a block in use -/

/-- R210: the issue step of a port without a request. -/
theorem issueStep_of_no_request {s : State} {p : Nat} (port : (s.producer p).port = []) :
    issueStep s p = .next s := by
  simp only [issueStep, port]

/-- R222: a block is in use while one of its producers is in `ACQ` or `XFER`. -/
theorem inUse_of_active {s : State} (active : ∃ P ∈ s.producers, P.phase ≠ .idle) : s.inUse = true := by
  simpa [State.inUse] using active

theorem exec_deinitializeSession_of_inUse {s : State} (busy : s.inUse = true) :
    exec .deinitializeSession s = .refused (.sessionInUse "deinitialize") :=
  if_pos busy

theorem exec_setReceiveCapacity_of_inUse {s : State} (unit : s.cfg.hasCapture = true) (busy : s.inUse = true)
    (n : Nat) : exec (.setReceiveCapacity n) s = .refused (.sessionInUse "setReceiveCapacity") :=
  (if_neg (by simp [unit])).trans (if_pos busy)

/-! ## The reset input -/

/-- R210, R211: every context goes to its reset value; the requests not yet accepted stay at their port. -/
theorem producer_assertReset {s : State} {p : Nat} (hp : p < s.producers.length) :
    (s.assertReset).producer p = { Producer.reset with port := (s.producer p).port } := by
  simp [State.producer, List.getD_eq_getElem?_getD, List.getElem?_eq_getElem hp]

end Sys2Proof.Machine

/-! ## The obligations -/

open Sys2Proof.Machine

/-- Settles O48: a fault needs the lock or the cursor of the scheduled producer to be as the invariant excludes. -/
theorem noStepFaults : Obligations.NoStepFaults := by
  intro s f inv hstep
  obtain ⟨p, _, hp, faults⟩ := step_fault hstep
  have scheduled : (s.scheduled p).Inv := inv.congr rfl rfl rfl
  exact scheduled.not_faultsAt hp faults

/-- Settles O7: the issue step of a port without a request. -/
theorem idlePortWithoutRequestWaits : Obligations.IdlePortWithoutRequestWaits := by
  intro s p hmove hp idle port
  calc step s = producerStep (s.scheduled p) p := step_run hmove hp
    _ = issueStep (s.scheduled p) p := producerStep_idle idle
    _ = .next (s.scheduled p) := issueStep_of_no_request port

/-- Settles O17: both operations ask first whether the block is in use. -/
theorem sessionManagementRefusedInUse : Obligations.SessionManagementRefusedInUse := by
  intro s n active
  have busy := inUse_of_active active
  exact ⟨exec_deinitializeSession_of_inUse busy, fun unit => exec_setReceiveCapacity_of_inUse unit busy n⟩

/-- Settles O50: the state after the reset input, field by field; the move taken touches the environment only. -/
theorem resetInputAbandonsOperations : Obligations.ResetInputAbandonsOperations := by
  intro s hmove
  exact ⟨(s.moveTaken).assertReset, step_reset hmove, rfl, rfl, rfl, by simp, fun _ hp =>
    producer_assertReset (s := s.moveTaken) hp⟩

end
